-- ==== Sys2Proof/Word.lean ====
section
/-! DEFINITION. The word types of the block (spec/00_scope.md R6): a byte is 8 bits, unsigned; the only wider value is
the 32-bit checksum accumulator (spec/20_memory.md R52). -/

namespace Sys2Proof

/-- BYTE of R6: 8 bits, unsigned. Every field of a frame, of a response and of the draft is one byte. -/
abbrev Byte := BitVec 8

/-- ACC_WIDTH of R6: the 32-bit unsigned checksum accumulator. -/
abbrev Acc := BitVec 32

end Sys2Proof
end

