-- ==== Sys2Proof/Config.lean ====
section
/-! DEFINITION. What an implementation fixes (the open parameter N_MAX of spec/92_eei_decisions.md D3) and the free
values the spec leaves unspecified (the padding of the response buffer, spec/10_state.md R28). The parameters of the
host layer are the structure `HostParams` of Machine/HostLayer.lean. -/

namespace Sys2Proof.Config

/-- N_MAX, the greatest length of a byte-sequence operand. OPEN in the spec, which gives the default 255 (R6, R77, D3).
DESIGN CHOICE (log 1): the fixed `step` runs with the default. Everything that depends on N_MAX is a function of it
(`decodeWith`, `stepWith`, `Instr.wf`), so that claims can be made for every N_MAX the spec allows. -/
def nMax : Nat := 255

/-- The values of N_MAX the spec allows while the length prefix stays one byte: 19 ≤ N_MAX ≤ 255 (D3, the table of open
parameters). -/
def nMaxAllowed (n : Nat) : Prop := 19 ≤ n ∧ n ≤ 255

/-- The free bytes: what RCLS leaves in the padding of the response buffer, "unspecified, never exposed" (R28, R131).
No body: nothing can be proved of a value of it. Draw number `k` is `freeByte k`; `State.freeCount` counts the draws
(log 2). -/
opaque freeByte : Nat → Byte

end Sys2Proof.Config
end

