-- ==== Sys2Proof/Syntax.lean ====
section
/-! DEFINITION. The fifteen operations of the block (spec/30_encoding.md R78), one constructor per row of
spec/opcode_table.json, with the operands the row lists. A byte-sequence operand is a list of bytes: its length byte is
not stored, since it is the list's length (R77, R84). -/

namespace Sys2Proof

/-- The operations. Which operands are admitted is `Instr.wf` (WellFormed.lean). -/
inductive Instr where
  /-- CSUM b: checksum of a byte sequence (R101). -/
  | csum (b : List Byte)
  /-- FNEW a, c1, c2, d1, d2: build a frame from five bytes (R111). -/
  | fnew (a c1 c2 d1 d2 : Byte)
  /-- FCONV b: raw byte array to frame (R112). -/
  | fconv (b : List Byte)
  /-- DNEW a: create a draft with an address (R115). -/
  | dnew (a : Byte)
  /-- DOR1 m: OR bits into cmd1 (R116). -/
  | dor1 (m : Byte)
  /-- DOR2 m: OR bits into cmd2 (R117). -/
  | dor2 (m : Byte)
  /-- DSET1 v: write data1 (R118). -/
  | dset1 (v : Byte)
  /-- DSET2 v: write data2 (R119). -/
  | dset2 (v : Byte)
  /-- DSTOP: clear the four fields, keep the address (R120). -/
  | dstop
  /-- DRSTF f: reset one field; f is kept as the byte it is (R121, R194). -/
  | drstf (f : Byte)
  /-- DFIN: build the frame from the current draft (R122). -/
  | dfin
  /-- RCLS b: classify a received response and load it (R131). -/
  | rcls (b : List Byte)
  /-- RVAL occ: validate the checksum of the response held (R135). -/
  | rval (occ : Byte)
  /-- RKIND: the kind of the response held (R132). -/
  | rkind
  /-- RBYTES: the significant bytes of the response held (R133). -/
  | rbytes
  deriving DecidableEq, Repr

end Sys2Proof
end

