-- ==== Sys2Proof/WellFormed.lean ====
section
/-! DEFINITION. Which terms of `Instr` are operations of the block: a byte-sequence operand has at most N_MAX bytes
(spec/30_encoding.md R77, R81 (c)) and fits its one-byte length prefix, and the field selector of DRSTF is 1 to 4
(R81 (d)). Every other operand is one byte of any value (R78). -/

namespace Sys2Proof

/-- A byte sequence that a request can carry: its length is at most N_MAX and fits the length byte (R77). -/
def sequenceFits (nMax : Nat) (b : List Byte) : Bool := b.length ≤ nMax && b.length ≤ 255

/-- The selectors of DRSTF: 1 cmd1, 2 cmd2, 3 data1, 4 data2 (R78). -/
def selectorAllowed (f : Byte) : Bool := f == 1 || f == 2 || f == 3 || f == 4

/-- The instruction is an operation of the block under this N_MAX. -/
def Instr.wf (nMax : Nat) : Instr → Bool
  | .csum b => sequenceFits nMax b
  | .fnew _ _ _ _ _ => true
  | .fconv b => sequenceFits nMax b
  | .dnew _ => true
  | .dor1 _ => true
  | .dor2 _ => true
  | .dset1 _ => true
  | .dset2 _ => true
  | .dstop => true
  | .drstf f => selectorAllowed f
  | .dfin => true
  | .rcls b => sequenceFits nMax b
  | .rval _ => true
  | .rkind => true
  | .rbytes => true

end Sys2Proof
end

