-- ==== Sys2Proof/Decode.lean ====
section
/-! DEFINITION. The request encoding (spec/30_encoding.md R77, R78, R81): the decoder, total on every byte string,
which refuses by name what spells no operation, and the encoder, written from the same table. A request is a byte
string; byte 0 is the operation code; format F is `op` and 0, 1 or 5 operand bytes; format S is `op`, a length byte n
and exactly n bytes. -/

namespace Sys2Proof

/-- The fifteen operation codes by name (R78). -/
inductive Opcode where
  | csum | fnew | fconv | dnew | dor1 | dor2 | dset1 | dset2 | dstop | drstf | dfin | rcls | rval | rkind | rbytes
  deriving DecidableEq, Repr

/-- The code column of R78. -/
def Opcode.code : Opcode → Byte
  | .csum => 0x01
  | .fnew => 0x02
  | .fconv => 0x03
  | .dnew => 0x10
  | .dor1 => 0x11
  | .dor2 => 0x12
  | .dset1 => 0x13
  | .dset2 => 0x14
  | .dstop => 0x15
  | .drstf => 0x16
  | .dfin => 0x17
  | .rcls => 0x20
  | .rval => 0x21
  | .rkind => 0x22
  | .rbytes => 0x23

/-- All rows of R78. -/
def Opcode.all : List Opcode :=
  [.csum, .fnew, .fconv, .dnew, .dor1, .dor2, .dset1, .dset2, .dstop, .drstf, .dfin, .rcls, .rval, .rkind, .rbytes]

/-- The operation a first byte names, if any. -/
def Opcode.ofByte (op : Byte) : Option Opcode := Opcode.all.find? fun o => o.code == op

/-- The two request formats of R77. -/
inductive Format where
  /-- Format F: `op` and a fixed number of operand bytes. -/
  | fixed (operands : Nat)
  /-- Format S: `op`, a length byte n, then n bytes. -/
  | sequence
  deriving DecidableEq, Repr

/-- The format column of R78. -/
def Opcode.format : Opcode → Format
  | .csum | .fconv | .rcls => .sequence
  | .fnew => .fixed 5
  | .dnew | .dor1 | .dor2 | .dset1 | .dset2 | .drstf | .rval => .fixed 1
  | .dstop | .dfin | .rkind | .rbytes => .fixed 0

/-- Why a byte string is no operation: the cases of R81. The block answers all of them alike, with ILLEGAL_OP. -/
inductive DecodeError where
  /-- (b): the request is empty. -/
  | emptyRequest
  /-- (a): byte 0 is none of the fifteen codes. -/
  | unknownCode (op : Byte)
  /-- (b): shorter or longer than R77 requires, a missing length byte included. -/
  | wrongLength
  /-- (c): a format S request whose n exceeds N_MAX. -/
  | sequenceTooLong (n : Byte)
  /-- (d): DRSTF with f outside 1 to 4. -/
  | badSelector (f : Byte)
  deriving DecidableEq, Repr

/-- The operand of a format S request: the length byte n, then exactly n bytes (R77, R81 (b), (c)). -/
def decodeSequence (nMax : Nat) : List Byte → Except DecodeError (List Byte)
  | [] => .error .wrongLength
  | n :: b =>
    if nMax < n.toNat then .error (.sequenceTooLong n)
    else if b.length = n.toNat then .ok b
    else .error .wrongLength

/-- The operand of a one-operand format F request. -/
def decodeByte : List Byte → Except DecodeError Byte
  | [v] => .ok v
  | _ => .error .wrongLength

/-- A format F request without operands. -/
def decodeNothing (i : Instr) : List Byte → Except DecodeError Instr
  | [] => .ok i
  | _ => .error .wrongLength

/-- The operand bytes after `op`, as the operation's row of R78 lists them. -/
def decodeOperands (nMax : Nat) (op : Opcode) (rest : List Byte) : Except DecodeError Instr :=
  match op with
  | .csum => (decodeSequence nMax rest).map .csum
  | .fnew =>
    match rest with
    | [a, c1, c2, d1, d2] => .ok (.fnew a c1 c2 d1 d2)
    | _ => .error .wrongLength
  | .fconv => (decodeSequence nMax rest).map .fconv
  | .dnew => (decodeByte rest).map .dnew
  | .dor1 => (decodeByte rest).map .dor1
  | .dor2 => (decodeByte rest).map .dor2
  | .dset1 => (decodeByte rest).map .dset1
  | .dset2 => (decodeByte rest).map .dset2
  | .dstop => decodeNothing .dstop rest
  | .drstf =>
    match decodeByte rest with
    | .ok f => if selectorAllowed f then .ok (.drstf f) else .error (.badSelector f)
    | .error e => .error e
  | .dfin => decodeNothing .dfin rest
  | .rcls => (decodeSequence nMax rest).map .rcls
  | .rval => (decodeByte rest).map .rval
  | .rkind => decodeNothing .rkind rest
  | .rbytes => decodeNothing .rbytes rest

/-- The decoder under a given N_MAX, total on every byte string (R77, R78, R81). -/
def decodeWith (nMax : Nat) : List Byte → Except DecodeError Instr
  | [] => .error .emptyRequest
  | op :: rest =>
    match Opcode.ofByte op with
    | some o => decodeOperands nMax o rest
    | none => .error (.unknownCode op)

/-- The decoder under the default N_MAX. -/
def decode (b : List Byte) : Except DecodeError Instr := decodeWith Config.nMax b

/-! ### The encoder -/

/-- The row of R78 an instruction belongs to. -/
def Instr.opcode : Instr → Opcode
  | .csum _ => .csum
  | .fnew _ _ _ _ _ => .fnew
  | .fconv _ => .fconv
  | .dnew _ => .dnew
  | .dor1 _ => .dor1
  | .dor2 _ => .dor2
  | .dset1 _ => .dset1
  | .dset2 _ => .dset2
  | .dstop => .dstop
  | .drstf _ => .drstf
  | .dfin => .dfin
  | .rcls _ => .rcls
  | .rval _ => .rval
  | .rkind => .rkind
  | .rbytes => .rbytes

/-- A byte sequence as operand: its length byte, then its bytes (R77). -/
def encodeSequence (b : List Byte) : List Byte := BitVec.ofNat 8 b.length :: b

/-- The operand bytes of an instruction, in the order its row of R78 lists them. -/
def Instr.operandBytes : Instr → List Byte
  | .csum b => encodeSequence b
  | .fnew a c1 c2 d1 d2 => [a, c1, c2, d1, d2]
  | .fconv b => encodeSequence b
  | .dnew a => [a]
  | .dor1 m => [m]
  | .dor2 m => [m]
  | .dset1 v => [v]
  | .dset2 v => [v]
  | .dstop => []
  | .drstf f => [f]
  | .dfin => []
  | .rcls b => encodeSequence b
  | .rval occ => [occ]
  | .rkind => []
  | .rbytes => []

/-- The request of a well-formed instruction (R77, R78). -/
def encode (i : Instr) : List Byte := i.opcode.code :: i.operandBytes

/-! ### Words of the opcode table -/

/-- Byte `i` of a number laid out with its least significant byte first. -/
def tableByte (v i : Nat) : Byte := BitVec.ofNat 8 (v >>> (8 * i))

/-- How many bytes R77 requires of a request with this operation and this byte 1. -/
def Opcode.requestLength (o : Opcode) (n : Byte) : Nat :=
  match o.format with
  | .fixed k => 1 + k
  | .sequence => 2 + n.toNat

/-- The request spelt by a word of spec/opcode_table.json: its `nbits` bits, byte 0 least significant, and zeros above
them up to the length the operation requires (R77). A row's bits beyond that length stay, so that the decoder sees
them. -/
def requestOfTableWord (nbits w : Nat) : List Byte :=
  let v := w % 2 ^ nbits
  let given := (nbits + 7) / 8
  let need :=
    match Opcode.ofByte (tableByte v 0) with
    | some o => o.requestLength (tableByte v 1)
    | none => given
  (List.range (max given need)).map (tableByte v)

/-- The instruction the decoder reads from a word of the opcode table; none where it refuses. -/
def decodeTableWord (nbits w : Nat) : Option Instr :=
  match decode (requestOfTableWord nbits w) with
  | .ok i => some i
  | .error _ => none

end Sys2Proof
end

