-- ==== Sys2Proof/Machine/State.lean ====
section
/-! DEFINITION. The state of the block (spec/10_state.md R20, R34), beside it the model's own fields for the host's side
of the request interface, and the state after reset. The registers of R20 are `Block`: DCRE, the draft DA, DC1, DC2,
DD1, DD2, and the response register RK, RB[0..17]. The spec gives the machine no memory, no program counter, no flag
register and no mode (R30, R31, R33, R199). -/

namespace Sys2Proof.Machine

/-- The four kinds of a response, what RK holds (R26). -/
inductive Kind where
  /-- None, 0 bytes. -/
  | none
  /-- General, 4 bytes. -/
  | general
  /-- Extended, 7 bytes. -/
  | extended
  /-- Query, 18 bytes. -/
  | query
  deriving DecidableEq, Repr

/-- The draft registers (R21): address, cmd1 bitmask, cmd2 bitmask, data1, data2. -/
structure Draft where
  da : Byte
  dc1 : Byte
  dc2 : Byte
  dd1 : Byte
  dd2 : Byte
  deriving DecidableEq, Repr

/-- The whole architectural state of the block (R20): "There is no other state." -/
structure Block where
  /-- DCRE: a draft has been created since reset (R25). -/
  dcre : Bool
  /-- DA, DC1, DC2, DD1, DD2 (R21). -/
  draft : Draft
  /-- RK: the kind of the response held (R26). -/
  rk : Kind
  /-- RB[0] to RB[17]: the response buffer (R27); offsets at or beyond the kind's length are padding (R28). -/
  rb : Vector Byte 18
  deriving DecidableEq, Repr

/-- What the outside does to the block, in the order it does it: the host issues a request (a byte string, R77), or the
platform applies reset, between two requests or while one is in progress (R220, R233). -/
inductive Input where
  | request (bytes : List Byte)
  | reset
  /-- Reset strikes while this request is in progress: the request counts as not performed (R220). -/
  | resetDuring (bytes : List Byte)
  deriving DecidableEq, Repr

/-- The causes of InvalidValue (R192). The last two are raised by the host layer only, never by the block. -/
inductive Cause where
  /-- RCLS, with the observed length. -/
  | responseLength (n : Byte)
  /-- FCONV, with the observed length; the expected length 7 follows it. -/
  | frameLength (n : Byte)
  | presetZero
  | nonAscii
  deriving DecidableEq, Repr

/-- The failures an operation can raise (R193, R194, R195). They are results of a request and change no state; none of
them stops the machine. -/
inductive Failure where
  | invalidValue (cause : Cause)
  | illegalOp
  | noDraft
  deriving DecidableEq, Repr

/-- The result of one request: status OK with its result bytes, or a failure (R9, R79). -/
inductive Result where
  | ok (payload : List Byte)
  | raised (f : Failure)
  deriving DecidableEq, Repr

/-- The state a step acts on: the block, and the model's own fields. -/
structure State extends Block where
  /-- The model's own: what the outside will still do, next first. It stands for the host's request list (R31, R57). -/
  inputs : List Input
  /-- The model's own: the results returned so far, one byte string per request, in request order (R79, R233). -/
  results : List (List Byte)
  /-- The model's own: how many free bytes have been drawn (log 2). -/
  freeCount : Nat
  deriving DecidableEq, Repr

/-- The faults that stop the machine. There is none: every operation of the block "always ends, with exactly one
result" (R13), and a failure is a result that changes no state (R197, R202). -/
inductive Fault : Type
  deriving DecidableEq, Repr

/-- The refusals of the model. -/
inductive Refusal where
  /-- Raised by an arm of `exec` whose instruction has no meaning yet. No arm raises it. Safe: the model stops. -/
  | notModelled (mnemonic : String)
  deriving DecidableEq, Repr

/-- The block after reset (R34): DCRE = 0 and RK = None. DA, DC1, DC2, DD1, DD2 and RB are unspecified there;
DESIGN CHOICE (log 3): the model names zero for each of them. -/
def Block.reset : Block where
  dcre := false
  draft := { da := 0, dc1 := 0, dc2 := 0, dd1 := 0, dd2 := 0 }
  rk := .none
  rb := Vector.replicate 18 0

/-- The machine right after reset: the block as R34 gives it, no request issued, no result returned. -/
def State.reset : State where
  toBlock := Block.reset
  inputs := []
  results := []
  freeCount := 0

end Sys2Proof.Machine
end

