-- ==== Sys2Proof/Machine/Operands.lean ====
section
/-! DEFINITION. Operand forms, byte sequences and field places: slices of a byte sequence (spec/00_scope.md R8), the
field selector of DRSTF (spec/41_frame_formatter.md R121), kinds and their lengths and codes (spec/10_state.md R26,
spec/30_encoding.md R80, spec/42_response.md R130), and the only widening there is, the zero extension of a summed byte
(spec/30_encoding.md R78). -/

namespace Sys2Proof.Machine

/-- `zext_32` of R7. -/
def zext32 (b : Byte) : Acc := b.setWidth 32

/-- `low8` of R7: ACC[7:0]. -/
def low8 (acc : Acc) : Byte := acc.setWidth 8

/-- `B[i ..< j]` of R8: offsets i to j - 1. -/
def slice (b : List Byte) (i j : Nat) : List Byte := (b.drop i).take (j - i)

/-- SYNC of R6. -/
def sync : Byte := 0xFF

/-- FRAME_LEN of R6. -/
def frameLen : Nat := 7

/-- A length as an information byte of a result (R192): the length byte of a request, so at most 255. -/
def lengthByte (n : Nat) : Byte := BitVec.ofNat 8 n

/-- The four fields DRSTF can select (R121): never the address. -/
inductive DraftField where
  | cmd1 | cmd2 | data1 | data2
  deriving DecidableEq, Repr

/-- The field a selector byte names; none for a selector outside 1 to 4 (R121). -/
def selectField (f : Byte) : Option DraftField :=
  if f = 1 then some .cmd1
  else if f = 2 then some .cmd2
  else if f = 3 then some .data1
  else if f = 4 then some .data2
  else none

/-- `len_of` of R26. -/
def lenOf : Kind → Nat
  | .none => 0
  | .general => 4
  | .extended => 7
  | .query => 18

/-- `kind_of_length` of R130; none stands for its error. -/
def kindOfLength (n : Nat) : Option Kind :=
  if n = 0 then some .none
  else if n = 4 then some .general
  else if n = 7 then some .extended
  else if n = 18 then some .query
  else none

/-- The kind codes of R80. -/
def kindCode : Kind → Byte
  | .none => 0x00
  | .general => 0x01
  | .extended => 0x02
  | .query => 0x03

end Sys2Proof.Machine
end

