-- ==== Sys2Proof/Machine/Flags.lean ====
section
/-! DEFINITION. The block has no condition codes (spec/10_state.md R33). What stands in their place: the checksum
(spec/40_checksum.md R100, R101), the verdict RVAL returns as a result byte and keeps nowhere (spec/42_response.md
R134), and the status and cause codes a result carries (spec/60_exceptions.md R191, R192). -/

namespace Sys2Proof.Machine

/-- The accumulator of R101: 32 bits, zero at the start, each byte zero-extended and added modulo 2^32 (R29, R103). -/
def accumulate (b : List Byte) : Acc := b.foldl (fun acc x => acc + zext32 x) 0

/-- `checksum` of R100: the low 8 bits of the accumulator (R101). -/
def checksum (b : List Byte) : Byte := low8 (accumulate b)

/-- `checksum_is_valid(K, R, occ)` of R134, for the significant bytes R of a response of kind K. The ranges are
half-open (R8, spec/90_conflicts.md C1); the sum of the Query condition is one of bytes, so modulo 256 (R136). -/
def checksumIsValid (k : Kind) (r : List Byte) (occ : Byte) : Bool :=
  match k with
  | .none => true
  | .general => r[3]? == some (checksum (occ :: slice r 2 3))
  | .extended => r[6]? == some (checksum (slice r 1 6))
  | .query => r[17]? == some (checksum (slice r 1 17) + occ)

/-- The verdict byte of RVAL (R79): 0x01 valid, 0x00 not valid. -/
def verdictByte (valid : Bool) : Byte := if valid then 0x01 else 0x00

/-- The cause byte and the information bytes that follow it (R192). -/
def Cause.bytes : Cause → List Byte
  | .responseLength n => [0x01, n]
  | .frameLength n => [0x02, n, lengthByte frameLen]
  | .presetZero => [0x03]
  | .nonAscii => [0x04]

/-- The result of a failure as bytes: its status, and for INVALID_VALUE the cause (R79, R191, R193 to R195). -/
def Failure.bytes : Failure → List Byte
  | .invalidValue c => 0x01 :: c.bytes
  | .illegalOp => [0x02]
  | .noDraft => [0x03]

/-- A result as the byte string returned to the host (R79): status 0x00 and the result bytes, or the failure. -/
def Result.bytes : Result → List Byte
  | .ok payload => 0x00 :: payload
  | .raised f => f.bytes

end Sys2Proof.Machine
end

