-- ==== Sys2Proof/Machine/Ops.lean ====
section
/-! DEFINITION. The named operations the meanings share: returning a result, raising a failure (what this block has in
place of taking an exception, spec/60_exceptions.md R193 to R198, R202), the draft and its updates
(spec/41_frame_formatter.md R115 to R121), the response register (spec/42_response.md R131, R133), and what the outside
does between requests (spec/70_reset_and_hazards.md R220). There is no return from an exception: nothing was saved
(R203). -/

namespace Sys2Proof.Machine

/-! ### Results and failures -/

/-- Return the result of the request in hand: one result per request, in request order (R57, R79, R233). -/
def respond (r : Result) (s : State) : State := { s with results := s.results ++ [r.bytes] }

/-- `result <- OK(...)` of R9. -/
def complete (payload : List Byte) (s : State) : Host.Outcome State Fault Refusal := .next (respond (.ok payload) s)

/-- `raise` of R9: the operation ends at once with the failure as its result; no register is written, nothing is saved,
and control goes nowhere (R193 to R198, R202). -/
def raise (f : Failure) (s : State) : Host.Outcome State Fault Refusal := .next (respond (.raised f) s)

/-- `if DCRE = 0: raise NoDraft` before the operation's own effect (R195). -/
def requireDraft (s : State) (effect : Host.Outcome State Fault Refusal) : Host.Outcome State Fault Refusal :=
  if s.dcre then effect else raise .noDraft s

/-! ### Frames -/

/-- `frame_new` of R110. -/
def frameNew (a c1 c2 d1 d2 : Byte) : List Byte := [sync, a, c1, c2, d1, d2, checksum [a, c1, c2, d1, d2]]

/-! ### The draft -/

/-- A draft just created: the address, and the four fields at their "zero default" (R115). -/
def Draft.new (a : Byte) : Draft := { da := a, dc1 := 0, dc2 := 0, dd1 := 0, dd2 := 0 }

/-- `DC1 <- DC1 | m` (R116). -/
def Draft.or1 (m : Byte) (d : Draft) : Draft := { d with dc1 := d.dc1 ||| m }

/-- `DC2 <- DC2 | m` (R117). -/
def Draft.or2 (m : Byte) (d : Draft) : Draft := { d with dc2 := d.dc2 ||| m }

/-- `DD1 <- v` (R118). -/
def Draft.set1 (v : Byte) (d : Draft) : Draft := { d with dd1 := v }

/-- `DD2 <- v` (R119). -/
def Draft.set2 (v : Byte) (d : Draft) : Draft := { d with dd2 := v }

/-- The four fields to zero, the address kept (R120). -/
def Draft.stop (d : Draft) : Draft := { d with dc1 := 0, dc2 := 0, dd1 := 0, dd2 := 0 }

/-- The one selected field to zero (R121). -/
def Draft.resetField (f : DraftField) (d : Draft) : Draft :=
  match f with
  | .cmd1 => { d with dc1 := 0 }
  | .cmd2 => { d with dc2 := 0 }
  | .data1 => { d with dd1 := 0 }
  | .data2 => { d with dd2 := 0 }

/-- The frame of the current draft (R122). -/
def Draft.frame (d : Draft) : List Byte := frameNew d.da d.dc1 d.dc2 d.dd1 d.dd2

/-- Write the draft registers; DCRE stays. -/
def writeDraft (d : Draft) (s : State) : State := { s with draft := d }

/-- Create a draft: write its registers and set DCRE (R115). -/
def createDraft (d : Draft) (s : State) : State := { s with draft := d, dcre := true }

/-! ### The response register -/

/-- The buffer after a load: the loaded bytes at offsets 0 to n - 1, free bytes in the padding (R28, R131). `draws` is
how many free bytes were drawn before. -/
def loadedBuffer (b : List Byte) (draws : Nat) : Vector Byte 18 :=
  Vector.mk ((List.range 18).map fun i => b.getD i (Config.freeByte (draws + i))).toArray (by simp)

/-- `RK <- kind; RB[i] <- B[i]`, together (R131, R56). -/
def loadResponse (k : Kind) (b : List Byte) (s : State) : State :=
  { s with rk := k, rb := loadedBuffer b s.freeCount, freeCount := s.freeCount + 18 }

/-- The significant bytes RB[0] to RB[len_of(RK) - 1] (R27, R133, R135). -/
def significant (s : Block) : List Byte := s.rb.toList.take (lenOf s.rk)

/-! ### What the outside does -/

/-- The next input is taken; the block has not acted on it yet. -/
def takeInput (rest : List Input) (s : State) : State := { s with inputs := rest }

/-- The reset event: the block takes its reset values and returns no result (R220, R34). -/
def applyReset (s : State) : Host.Outcome State Fault Refusal := .next { s with toBlock := Block.reset }

/-- With no request presented the block waits for the next (R31, R16): nothing changes. -/
def waitForRequest (s : State) : Host.Outcome State Fault Refusal := .next s

end Sys2Proof.Machine
end

