-- ==== Sys2Proof/Machine/Checksum.lean ====
section
/-! DEFINITION. The checksum unit, CSU (spec/40_checksum.md): the operation CSUM. The function `checksum` is in
Machine/Flags.lean, since the verdict is computed from it too. -/

namespace Sys2Proof.Machine

/-- CSUM (R101): the checksum of the operand; no state read, none written, no error of its own. -/
def execCsum (b : List Byte) (s : State) : Host.Outcome State Fault Refusal := complete [checksum b] s

end Sys2Proof.Machine
end

