-- ==== Sys2Proof/Machine/Frame.lean ====
section
/-! DEFINITION. The frame formatter unit, FFU (spec/41_frame_formatter.md): FNEW, FCONV and the eight draft operations
DNEW, DOR1, DOR2, DSET1, DSET2, DSTOP, DRSTF, DFIN. The block never inspects the bytes it formats (R71). -/

namespace Sys2Proof.Machine

/-- FNEW (R111): the frame of five bytes; the draft is not consulted, no state is written, no error. -/
def execFnew (a c1 c2 d1 d2 : Byte) (s : State) : Host.Outcome State Fault Refusal :=
  complete (frameNew a c1 c2 d1 d2) s

/-- FCONV (R112): seven bytes come back unchanged; any other length is InvalidValue(FRAME_LENGTH, n, 7). -/
def execFconv (b : List Byte) (s : State) : Host.Outcome State Fault Refusal :=
  if b.length = frameLen then complete b s
  else raise (.invalidValue (.frameLength (lengthByte b.length))) s

/-- DNEW (R115): a new draft, at any time; whatever the draft held is discarded. -/
def execDnew (a : Byte) (s : State) : Host.Outcome State Fault Refusal :=
  complete [] (createDraft (Draft.new a) s)

/-- DOR1 (R116): bits are only ever added to DC1. -/
def execDor1 (m : Byte) (s : State) : Host.Outcome State Fault Refusal :=
  requireDraft s (complete [] (writeDraft (s.draft.or1 m) s))

/-- DOR2 (R117): bits are only ever added to DC2. -/
def execDor2 (m : Byte) (s : State) : Host.Outcome State Fault Refusal :=
  requireDraft s (complete [] (writeDraft (s.draft.or2 m) s))

/-- DSET1 (R118): DD1 is overwritten, not merged. -/
def execDset1 (v : Byte) (s : State) : Host.Outcome State Fault Refusal :=
  requireDraft s (complete [] (writeDraft (s.draft.set1 v) s))

/-- DSET2 (R119): DD2 is overwritten, not merged; the Turbo byte 0xFF is stored like any other. -/
def execDset2 (v : Byte) (s : State) : Host.Outcome State Fault Refusal :=
  requireDraft s (complete [] (writeDraft (s.draft.set2 v) s))

/-- DSTOP (R120): the four fields are cleared, the address and DCRE kept. -/
def execDstop (s : State) : Host.Outcome State Fault Refusal :=
  requireDraft s (complete [] (writeDraft s.draft.stop s))

/-- DRSTF (R121): the selector is checked first, then the draft; the one selected field is cleared. -/
def execDrstf (f : Byte) (s : State) : Host.Outcome State Fault Refusal :=
  match selectField f with
  | none => raise .illegalOp s
  | some field => requireDraft s (complete [] (writeDraft (s.draft.resetField field) s))

/-- DFIN (R122): the frame of the draft; the draft stays as it is. -/
def execDfin (s : State) : Host.Outcome State Fault Refusal :=
  requireDraft s (complete s.draft.frame s)

end Sys2Proof.Machine
end

