-- ==== Sys2Proof/Machine/Response.lean ====
section
/-! DEFINITION. The response classifier and checksum validator unit, RCU (spec/42_response.md): RCLS, RVAL, RKIND,
RBYTES. Classification looks at the length alone; neither sync nor address is ever checked (R76). -/

namespace Sys2Proof.Machine

/-- RCLS (R131): a response of 0, 4, 7 or 18 bytes is loaded; any other length is InvalidValue(RESPONSE_LENGTH, n) and
the response held before stays. -/
def execRcls (b : List Byte) (s : State) : Host.Outcome State Fault Refusal :=
  match kindOfLength b.length with
  | some k => complete [kindCode k] (loadResponse k b s)
  | none => raise (.invalidValue (.responseLength (lengthByte b.length))) s

/-- RVAL (R135): the verdict on the response held; "not valid" is a result with status OK. -/
def execRval (occ : Byte) (s : State) : Host.Outcome State Fault Refusal :=
  complete [verdictByte (checksumIsValid s.rk (significant s.toBlock) occ)] s

/-- RKIND (R132): the kind code of the response held. -/
def execRkind (s : State) : Host.Outcome State Fault Refusal := complete [kindCode s.rk] s

/-- RBYTES (R133): the length and the significant bytes of the response held; padding is never returned. -/
def execRbytes (s : State) : Host.Outcome State Fault Refusal :=
  complete (lengthByte (lenOf s.rk) :: significant s.toBlock) s

end Sys2Proof.Machine
end

