-- ==== Sys2Proof/Machine/Dispatch.lean ====
section
/-! DEFINITION. One arm per operation of spec/30_encoding.md R78, each a call of its meaning. -/

namespace Sys2Proof.Machine

def exec (i : Instr) (s : State) : Host.Outcome State Fault Refusal :=
  match i with
  -- CSU
  | .csum b => Sys2Proof.Machine.execCsum b s
  -- FFU
  | .fnew a c1 c2 d1 d2 => Sys2Proof.Machine.execFnew a c1 c2 d1 d2 s
  | .fconv b => Sys2Proof.Machine.execFconv b s
  | .dnew a => Sys2Proof.Machine.execDnew a s
  | .dor1 m => Sys2Proof.Machine.execDor1 m s
  | .dor2 m => Sys2Proof.Machine.execDor2 m s
  | .dset1 v => Sys2Proof.Machine.execDset1 v s
  | .dset2 v => Sys2Proof.Machine.execDset2 v s
  | .dstop => Sys2Proof.Machine.execDstop s
  | .drstf f => Sys2Proof.Machine.execDrstf f s
  | .dfin => Sys2Proof.Machine.execDfin s
  -- RCU
  | .rcls b => Sys2Proof.Machine.execRcls b s
  | .rval occ => Sys2Proof.Machine.execRval occ s
  | .rkind => Sys2Proof.Machine.execRkind s
  | .rbytes => Sys2Proof.Machine.execRbytes s

end Sys2Proof.Machine
end

