-- ==== Sys2Proof/Machine/Request.lean ====
section
/-! DEFINITION. Performing one request (spec/30_encoding.md R77, R81; spec/60_exceptions.md R194, R200): the form is
checked first, by the decoder, and only then does the operation run. -/

namespace Sys2Proof.Machine

/-- The request in hand is performed: decoded and executed, or answered ILLEGAL_OP where it spells no operation, with
no state written (R81, R194). -/
def performRequest (nMax : Nat) (b : List Byte) (s : State) : Host.Outcome State Fault Refusal :=
  match decodeWith nMax b with
  | .ok i => exec i s
  | .error _ => raise .illegalOp s

end Sys2Proof.Machine
end

