-- ==== Sys2Proof/Machine/Step.lean ====
section
/-! DEFINITION. One step: one input, one atomic step, one result (spec/00_scope.md R5, R13; spec/20_memory.md R56, R57).
There is no fetch and no program counter: the block performs the request the host presents (spec/10_state.md R31). -/

namespace Sys2Proof.Machine

/-- One step under a given N_MAX: the next input is taken and acted on; with none, the block waits (log 4). -/
def stepWith (nMax : Nat) (s : State) : Host.Outcome State Fault Refusal :=
  match s.inputs with
  | [] => waitForRequest s
  | .request b :: rest => performRequest nMax b (takeInput rest s)
  | .reset :: rest => applyReset (takeInput rest s)
  | .resetDuring _ :: rest => applyReset (takeInput rest s)

/-- One step under the default N_MAX (log 1). -/
def step (s : State) : Host.Outcome State Fault Refusal := stepWith Config.nMax s

/-- The request spelt by a word of the opcode table is the next thing the host issues (log 5). -/
def State.withFetchWord (s : State) (nbits w : Nat) : State :=
  { s with inputs := .request (requestOfTableWord nbits w) :: s.inputs }

end Sys2Proof.Machine
end

