-- ==== Sys2Proof/Machine/HostLayer.lean ====
section
/-! DEFINITION. The host command layer (spec/45_host_command_layer.md R150 to R176): the software around the block. It is
no part of the block and adds nothing to `State`, `Instr` or `step` (R4). Each method and constructor is a
pseudo-operation: it computes bytes and expands to operations of the block (R85), which `issue` turns into requests.
What the spec leaves to parameters (CMD1_BITS, CMD2_BITS, EXT_TABLE, the enum codes, spec/92_eei_decisions.md D23) is
the structure `HostParams`, an argument of every definition that needs it (log 7). -/

namespace Sys2Proof.Machine.HostLayer

/-! ### Named constants (R151, R152) -/

/-- CMD1_BITS and CMD2_BITS: the value of each named flag of the two command bytes (R73). -/
structure FlagBits where
  sense : Byte
  autoManualScan : Byte
  cameraOnOff : Byte
  irisClose : Byte
  irisOpen : Byte
  focusNear : Byte
  focusFar : Byte
  zoomWide : Byte
  zoomTele : Byte
  down : Byte
  up : Byte
  left : Byte
  right : Byte
  deriving DecidableEq, Repr

/-- The two sums the source's examples fix (R73): SENSE | CAMERA_ON_OFF = 0x88 and FOCUS_FAR | DOWN = 0x90. -/
def FlagBits.wf (p : FlagBits) : Bool := (p.sense ||| p.cameraOnOff) == 0x88 && (p.focusFar ||| p.down) == 0x90

/-- The usual Pelco D positions (R73, general knowledge G1). PRESUMED (log 7). -/
def FlagBits.pelcoD : FlagBits where
  sense := 0x80
  autoManualScan := 0x10
  cameraOnOff := 0x08
  irisClose := 0x04
  irisOpen := 0x02
  focusNear := 0x01
  focusFar := 0x80
  zoomWide := 0x40
  zoomTele := 0x20
  down := 0x10
  up := 0x08
  left := 0x04
  right := 0x02

/-- The Direction constants (R152). Whether the argument of `direction(d)` may also be a pattern of several direction
bits, such as UP | LEFT, the spec does not say (R153). DESIGN CHOICE (log 18): it is one of the four constants. -/
inductive Direction where
  | up | down | left | right
  deriving DecidableEq, Repr

/-- "Direction bit values are deliberately pre-aligned to their cmd2 bit positions": the conversion is the identity on
the byte (R152). -/
def Direction.toCmd2 (p : FlagBits) : Direction → Byte
  | .up => p.up
  | .down => p.down
  | .left => p.left
  | .right => p.right

/-! ### Speed quantisation (R160 to R162) -/

/-- The fraction of a speed: a rational, or the not-a-number of a floating-point format (R161). -/
inductive Fraction where
  | rational (q : Rat)
  | notANumber
  deriving DecidableEq, Repr

/-- The two variants of a speed (R160). -/
inductive Speed where
  | range (f : Fraction)
  | turbo
  deriving DecidableEq, Repr

/-- `c = min(max(f, 0), 1)`: saturating, not an error (R160, R162). -/
def clampUnit (q : Rat) : Rat := min (max q 0) 1

/-- `round(x) = floor(x + 1/2)` for x ≥ 0: half away from zero (R161, D22; log 8). -/
def roundHalfUp (x : Rat) : Int := (x + 1 / 2).floor

/-- `speed_to_byte` (R160). None only for not-a-number, which a model refuses (R161). -/
def speedToByte : Speed → Option Byte
  | .range (.rational q) => some (BitVec.ofInt 8 (roundHalfUp (63 * clampUnit q)))
  | .range .notANumber => none
  | .turbo => some 0xFF

/-! ### Extended-command parameters -/

/-! The rows of the extended-command table (R170), grouped by what their data bytes carry. Flip-180 and go-to-zero-pan
have no row of their own: they are go-to-preset with fixed ids (R164). -/

/-- Commands without arguments: all four payload bytes are the table's. -/
inductive PlainRow where
  | remoteReset | clearScreen | zoneScanOn | zoneScanOff | setPatternStart | setPatternStop | runPattern
  | resetToDefaults | enablePhaseDelay | query
  deriving DecidableEq, Repr

/-- Commands that carry a preset id (R164). -/
inductive PresetRow where
  | set | clear | goTo
  deriving DecidableEq, Repr

/-- Commands that carry one byte: an id, an alarm number, or a code. -/
inductive ByteRow where
  | setAuxiliary | clearAuxiliary | setZoneStart | setZoneEnd | alarmAcknowledge | setZoomSpeed | setFocusSpeed
  | autoFocus | autoIris | agc | backlight | autoWhiteBalance
  deriving DecidableEq, Repr

/-- Adjustment commands, which carry 16 bits in one of two modes (R166). -/
inductive AdjustRow where
  | phaseDelay | whiteBalanceRB | whiteBalanceMG | gain | irisLevel | irisPeak
  deriving DecidableEq, Repr

/-- The named values of an auto-control parameter (R167). -/
inductive AutoMode where
  | on | off | auto
  deriving DecidableEq, Repr

/-- The named values of an on/off parameter (R167). -/
inductive OnOff where
  | on | off
  deriving DecidableEq, Repr

/-- The named shutter-speed presets (R168). -/
inductive ShutterPreset where
  | pal | ntsc | increment | decrement | default | auto
  deriving DecidableEq, Repr

/-- An enum-valued argument: a name of the documented enum, or the raw byte that bypasses the mapping (R167). -/
inductive Coded (α : Type) where
  | named (x : α)
  | value (raw : Byte)
  deriving DecidableEq, Repr

/-- A shutter speed: a value, or a named preset (R168). -/
inductive ShutterSpeed where
  | value (secs : BitVec 16)
  | preset (name : ShutterPreset)
  deriving DecidableEq, Repr

/-- An adjustment: a signed delta or an unsigned new absolute value (R166). -/
inductive Adjustment where
  | delta (d : Int)
  | absolute (v : BitVec 16)
  deriving DecidableEq, Repr

/-- The payload `[subOpcode, opcode, dataHi, dataLo]`, at the places of cmd1, cmd2, data1, data2 (R74, R163). -/
structure Payload where
  subOpcode : Byte
  opcode : Byte
  dataHi : Byte
  dataLo : Byte
  deriving DecidableEq, Repr

/-- Which of the two data bytes carries an argument. -/
inductive DataPlace where
  | hi | lo
  deriving DecidableEq, Repr

/-- What a data column of the table holds: a byte of the table, or the command's argument. -/
inductive DataColumn where
  | fixed (b : Byte)
  | argument
  deriving DecidableEq, Repr

/-- A preset row: the id travels in dataLo (R164), the other three bytes are the table's. -/
structure PresetEntry where
  subOpcode : Byte
  opcode : Byte
  dataHi : Byte
  deriving DecidableEq, Repr

/-- A row that carries one byte: which data byte carries it, and what the other one is. -/
structure ByteEntry where
  subOpcode : Byte
  opcode : Byte
  place : DataPlace
  other : Byte
  deriving DecidableEq, Repr

/-- The row of write-char-to-screen: which data byte carries the character (R165), and whether the other is the screen
position or a byte of the table (N21, G8). -/
structure ScreenEntry where
  subOpcode : Byte
  opcode : Byte
  place : DataPlace
  other : DataColumn
  deriving DecidableEq, Repr

/-- The row of set-shutter-speed: both data bytes are the argument's (R168). -/
structure ShutterEntry where
  subOpcode : Byte
  opcode : Byte
  deriving DecidableEq, Repr

/-- An adjustment row: a leading byte for each mode (R166); both data bytes are the argument's (R169). -/
structure AdjustEntry where
  deltaSubOpcode : Byte
  absoluteSubOpcode : Byte
  opcode : Byte
  deriving DecidableEq, Repr

/-- EXT_TABLE (D23): all four payload columns of R170 are parameters, but for what the source itself gives, which the
types of the rows say: the preset id in dataLo (R164), the screen character in a data byte (R165), 16-bit values
big-endian across the two (R54, R168, R169), flip-180 and go-to-zero-pan as go-to-preset (R164). -/
structure ExtTable where
  plain : PlainRow → Payload
  preset : PresetRow → PresetEntry
  byteArg : ByteRow → ByteEntry
  screen : ScreenEntry
  shutter : ShutterEntry
  adjust : AdjustRow → AdjustEntry

/-- The host layer's parameters (D23, D24 and the table of open parameters): what the source does not give. -/
structure HostParams where
  bits : FlagBits
  /-- The bits `zoom_in` and `zoom_out` OR into cmd2, `auto_scan` and `manual_scan` into cmd1 (R157, N10). -/
  zoomIn : Byte
  zoomOut : Byte
  autoScan : Byte
  manualScan : Byte
  table : ExtTable
  /-- The numeric codes of the enums are not in the source (R167, N9). Zoom and focus speeds are named by number. -/
  zoomSpeedCode : Nat → Byte
  focusSpeedCode : Nat → Byte
  autoCode : AutoMode → Byte
  onOffCode : OnOff → Byte
  /-- The byte pairs of the shutter presets are not in the source (R168, N9). -/
  shutterPair : ShutterPreset → Byte × Byte
  /-- How a signed delta becomes 16 bits (R169, D24). Neither that nor the range of a delta is in the source (N13).
  DESIGN CHOICE (log 16): it is a total function, so a delta of any size is accepted and none is rejected. -/
  delta16 : Int → BitVec 16

/-- The byte has exactly one or two bits set. -/
def oneOrTwoBits (m : Byte) : Bool :=
  let count := ((List.range 8).filter m.getLsbD).length
  count == 1 || count == 2

/-- The bits the ten named bit methods OR in: camera_on, camera_off, focus_far, focus_near, open_iris, close_iris,
zoom_in, zoom_out, auto_scan, manual_scan (R157). -/
def HostParams.methodBits (p : HostParams) : List Byte :=
  [p.bits.sense ||| p.bits.cameraOnOff, p.bits.cameraOnOff, p.bits.focusFar, p.bits.focusNear, p.bits.irisOpen,
    p.bits.irisClose, p.zoomIn, p.zoomOut, p.autoScan, p.manualScan]

/-- What the source says of the parameters beyond their types (R73, R157, R166): the two sums; that each named bit
method "sets exactly one or two specific bits"; and that in every adjustment row "a different leading opcode byte"
distinguishes delta-mode from absolute-mode. -/
def HostParams.sourced (p : HostParams) : Prop :=
  p.bits.wf = true ∧ p.methodBits.all oneOrTwoBits = true ∧
    ∀ row, (p.table.adjust row).deltaSubOpcode ≠ (p.table.adjust row).absoluteSubOpcode

/-! The table of R170 (general knowledge G3, G8), row by row. PRESUMED (log 7). -/

/-- The rows without arguments. -/
def pelcoDPlain : PlainRow → Payload
  | .remoteReset => { subOpcode := 0x00, opcode := 0x0F, dataHi := 0x00, dataLo := 0x00 }
  | .clearScreen => { subOpcode := 0x00, opcode := 0x17, dataHi := 0x00, dataLo := 0x00 }
  | .zoneScanOn => { subOpcode := 0x00, opcode := 0x1B, dataHi := 0x00, dataLo := 0x00 }
  | .zoneScanOff => { subOpcode := 0x00, opcode := 0x1D, dataHi := 0x00, dataLo := 0x00 }
  | .setPatternStart => { subOpcode := 0x00, opcode := 0x1F, dataHi := 0x00, dataLo := 0x00 }
  | .setPatternStop => { subOpcode := 0x00, opcode := 0x21, dataHi := 0x00, dataLo := 0x00 }
  | .runPattern => { subOpcode := 0x00, opcode := 0x23, dataHi := 0x00, dataLo := 0x00 }
  | .resetToDefaults => { subOpcode := 0x00, opcode := 0x29, dataHi := 0x00, dataLo := 0x00 }
  | .enablePhaseDelay => { subOpcode := 0x00, opcode := 0x35, dataHi := 0x00, dataLo := 0x00 }
  | .query => { subOpcode := 0x00, opcode := 0x45, dataHi := 0x00, dataLo := 0x00 }

/-- The preset rows. -/
def pelcoDPreset : PresetRow → PresetEntry
  | .set => { subOpcode := 0x00, opcode := 0x03, dataHi := 0x00 }
  | .clear => { subOpcode := 0x00, opcode := 0x05, dataHi := 0x00 }
  | .goTo => { subOpcode := 0x00, opcode := 0x07, dataHi := 0x00 }

/-- The opcode column of the rows that carry one byte. -/
def pelcoDByteOpcode : ByteRow → Byte
  | .setAuxiliary => 0x09
  | .clearAuxiliary => 0x0B
  | .setZoneStart => 0x11
  | .setZoneEnd => 0x13
  | .alarmAcknowledge => 0x19
  | .setZoomSpeed => 0x25
  | .setFocusSpeed => 0x27
  | .autoFocus => 0x2B
  | .autoIris => 0x2D
  | .agc => 0x2F
  | .backlight => 0x31
  | .autoWhiteBalance => 0x33

/-- The opcode column of the adjustment rows. -/
def pelcoDAdjustOpcode : AdjustRow → Byte
  | .phaseDelay => 0x39
  | .whiteBalanceRB => 0x3B
  | .whiteBalanceMG => 0x3D
  | .gain => 0x3F
  | .irisLevel => 0x41
  | .irisPeak => 0x43

/-- An adjustment row of R170: subOpcode "0x00 or 0x01", the spec does not print which selects the delta form, so
`deltaIsOne` says it. -/
def pelcoDAdjust (deltaIsOne : Bool) (row : AdjustRow) : AdjustEntry where
  deltaSubOpcode := if deltaIsOne then 0x01 else 0x00
  absoluteSubOpcode := if deltaIsOne then 0x00 else 0x01
  opcode := pelcoDAdjustOpcode row

/-- The whole table of R170. -/
def ExtTable.pelcoD (deltaIsOne : Bool) : ExtTable where
  plain := pelcoDPlain
  preset := pelcoDPreset
  byteArg := fun row => { subOpcode := 0x00, opcode := pelcoDByteOpcode row, place := .lo, other := 0x00 }
  screen := { subOpcode := 0x00, opcode := 0x15, place := .lo, other := .argument }
  shutter := { subOpcode := 0x00, opcode := 0x37 }
  adjust := pelcoDAdjust deltaIsOne

/-- The defaults the spec prints (R73, R157, R170, D24) over the codes it does not print at all, which are taken from
`codes`. PRESUMED (log 7). The two's complement of a delta is taken modulo 2^16, so a delta outside the signed 16-bit
range is reduced without failure: the range is not in the source (N13), DESIGN CHOICE (log 16). -/
def HostParams.pelcoD (codes : HostParams) (deltaIsOne : Bool) : HostParams :=
  { codes with
    bits := FlagBits.pelcoD
    zoomIn := FlagBits.pelcoD.zoomTele
    zoomOut := FlagBits.pelcoD.zoomWide
    autoScan := FlagBits.pelcoD.sense ||| FlagBits.pelcoD.autoManualScan
    manualScan := FlagBits.pelcoD.autoManualScan
    table := ExtTable.pelcoD deltaIsOne
    delta16 := BitVec.ofInt 16 }

/-! ### Builder methods (R153 to R159) -/

/-- The methods of the builder. -/
inductive Method where
  | direction (d : Direction)
  | up | down | left | right
  | pan (speed : Speed)
  | tilt (speed : Speed)
  | stop
  | cameraOn | cameraOff | focusFar | focusNear | openIris | closeIris | zoomIn | zoomOut | autoScan | manualScan
  deriving DecidableEq, Repr

/-- The expansion of a builder method into one operation of the block (R153 to R157). None only where the speed is
not-a-number. `tilt` takes Turbo like any other speed (R173). -/
def Method.expand (p : HostParams) : Method → Option Instr
  | .direction d => some (.dor2 (d.toCmd2 p.bits))
  | .up => some (.dor2 p.bits.up)
  | .down => some (.dor2 p.bits.down)
  | .left => some (.dor2 p.bits.left)
  | .right => some (.dor2 p.bits.right)
  | .pan speed => (speedToByte speed).map .dset1
  | .tilt speed => (speedToByte speed).map .dset2
  | .stop => some .dstop
  | .cameraOn => some (.dor1 (p.bits.sense ||| p.bits.cameraOnOff))
  | .cameraOff => some (.dor1 p.bits.cameraOnOff)
  | .focusFar => some (.dor2 p.bits.focusFar)
  | .focusNear => some (.dor1 p.bits.focusNear)
  | .openIris => some (.dor1 p.bits.irisOpen)
  | .closeIris => some (.dor1 p.bits.irisClose)
  | .zoomIn => some (.dor2 p.zoomIn)
  | .zoomOut => some (.dor2 p.zoomOut)
  | .autoScan => some (.dor1 p.autoScan)
  | .manualScan => some (.dor1 p.manualScan)

/-- `Builder(address)` and `finalize()` around a chain of methods: DNEW, the methods' operations, DFIN (R86, R159). -/
def builderChain (p : HostParams) (address : Byte) (methods : List Method) : Option (List Instr) :=
  (methods.mapM (Method.expand p)).map fun ops => .dnew address :: (ops ++ [.dfin])

/-! ### Extended-command constructors (R163 to R170) -/

/-- `be16(v) = (v[15:8], v[7:0])`: high byte first (R54, R169). -/
def be16 (v : BitVec 16) : Byte × Byte := (v.extractLsb' 8 8, v.extractLsb' 0 8)

/-- The extended commands with their arguments (R170). Only the preset id and the screen character have a rule of
their own (R164, R165, N22). -/
inductive ExtCommand where
  | setPreset (id : Byte)
  | clearPreset (id : Byte)
  | goToPreset (id : Byte)
  | flip180
  | goToZeroPan
  | setAuxiliary (id : Byte)
  | clearAuxiliary (id : Byte)
  | remoteReset
  | setZoneStart (id : Byte)
  | setZoneEnd (id : Byte)
  | writeCharToScreen (column : Byte) (character : Char)
  | clearScreen
  | alarmAcknowledge (alarm : Byte)
  | zoneScanOn
  | zoneScanOff
  | setPatternStart
  | setPatternStop
  | runPattern
  | setZoomSpeed (speed : Coded Nat)
  | setFocusSpeed (speed : Coded Nat)
  | resetToDefaults
  | autoFocus (mode : Coded AutoMode)
  | autoIris (mode : Coded AutoMode)
  | agc (mode : Coded AutoMode)
  | backlight (mode : Coded OnOff)
  | autoWhiteBalance (mode : Coded OnOff)
  | enablePhaseDelay
  | setShutterSpeed (speed : ShutterSpeed)
  | adjustPhaseDelay (a : Adjustment)
  | adjustWhiteBalanceRB (a : Adjustment)
  | adjustWhiteBalanceMG (a : Adjustment)
  | adjustGain (a : Adjustment)
  | adjustIrisLevel (a : Adjustment)
  | adjustIrisPeak (a : Adjustment)
  | query
  deriving DecidableEq, Repr

/-- The code of an enum-valued argument: the mapped code, or the raw byte unchanged and unchecked (R167). -/
def Coded.code {α : Type} (map : α → Byte) : Coded α → Byte
  | .named x => map x
  | .value raw => raw

/-- One byte in its place, another in the other (R170). -/
def placeBytes (place : DataPlace) (arg other : Byte) : Byte × Byte :=
  match place with
  | .hi => (arg, other)
  | .lo => (other, arg)

/-- The payload with these leading bytes and this pair of data bytes. -/
def pairPayload (subOpcode opcode : Byte) (data : Byte × Byte) : Payload :=
  { subOpcode := subOpcode, opcode := opcode, dataHi := data.1, dataLo := data.2 }

/-- Presets: id 0 is reserved and rejected; any other id travels in dataLo (R164). -/
def presetPayload (p : HostParams) (row : PresetRow) (id : Byte) : Except Cause Payload :=
  let e := p.table.preset row
  if id = 0 then .error .presetZero else .ok (pairPayload e.subOpcode e.opcode (e.dataHi, id))

/-- A command that carries one byte, unchanged and unchecked (R167, N22). -/
def bytePayload (p : HostParams) (row : ByteRow) (arg : Byte) : Payload :=
  let e := p.table.byteArg row
  pairPayload e.subOpcode e.opcode (placeBytes e.place arg e.other)

/-- The byte a column gives for this argument. -/
def DataColumn.byte (arg : Byte) : DataColumn → Byte
  | .fixed b => b
  | .argument => arg

/-- write-char-to-screen: a code point above 127 is rejected; any other is a data byte (R165). -/
def writeCharPayload (p : HostParams) (column : Byte) (character : Char) : Except Cause Payload :=
  let e := p.table.screen
  if 127 < character.toNat then .error .nonAscii
  else .ok (pairPayload e.subOpcode e.opcode
    (placeBytes e.place (BitVec.ofNat 8 character.toNat) (e.other.byte column)))

/-- The two data bytes of a shutter speed: a value big-endian, a preset by its pair (R168). -/
def shutterBytes (p : HostParams) : ShutterSpeed → Byte × Byte
  | .value secs => be16 secs
  | .preset name => p.shutterPair name

/-- Adjustments: the 16-bit value big-endian, and the row's leading byte for the mode (R166, R169). -/
def adjustPayload (p : HostParams) (row : AdjustRow) (x : Adjustment) : Payload :=
  let e := p.table.adjust row
  match x with
  | .delta d => pairPayload e.deltaSubOpcode e.opcode (be16 (p.delta16 d))
  | .absolute v => pairPayload e.absoluteSubOpcode e.opcode (be16 v)

/-- The payload of each extended command, or the cause of its rejection (R163 to R170). -/
def ExtCommand.payload (p : HostParams) : ExtCommand → Except Cause Payload
  | .setPreset id => presetPayload p .set id
  | .clearPreset id => presetPayload p .clear id
  | .goToPreset id => presetPayload p .goTo id
  | .flip180 => presetPayload p .goTo 0x21
  | .goToZeroPan => presetPayload p .goTo 0x22
  | .setAuxiliary id => .ok (bytePayload p .setAuxiliary id)
  | .clearAuxiliary id => .ok (bytePayload p .clearAuxiliary id)
  | .remoteReset => .ok (p.table.plain .remoteReset)
  | .setZoneStart id => .ok (bytePayload p .setZoneStart id)
  | .setZoneEnd id => .ok (bytePayload p .setZoneEnd id)
  | .writeCharToScreen column character => writeCharPayload p column character
  | .clearScreen => .ok (p.table.plain .clearScreen)
  | .alarmAcknowledge alarm => .ok (bytePayload p .alarmAcknowledge alarm)
  | .zoneScanOn => .ok (p.table.plain .zoneScanOn)
  | .zoneScanOff => .ok (p.table.plain .zoneScanOff)
  | .setPatternStart => .ok (p.table.plain .setPatternStart)
  | .setPatternStop => .ok (p.table.plain .setPatternStop)
  | .runPattern => .ok (p.table.plain .runPattern)
  | .setZoomSpeed speed => .ok (bytePayload p .setZoomSpeed (speed.code p.zoomSpeedCode))
  | .setFocusSpeed speed => .ok (bytePayload p .setFocusSpeed (speed.code p.focusSpeedCode))
  | .resetToDefaults => .ok (p.table.plain .resetToDefaults)
  | .autoFocus mode => .ok (bytePayload p .autoFocus (mode.code p.autoCode))
  | .autoIris mode => .ok (bytePayload p .autoIris (mode.code p.autoCode))
  | .agc mode => .ok (bytePayload p .agc (mode.code p.autoCode))
  | .backlight mode => .ok (bytePayload p .backlight (mode.code p.onOffCode))
  | .autoWhiteBalance mode => .ok (bytePayload p .autoWhiteBalance (mode.code p.onOffCode))
  | .enablePhaseDelay => .ok (p.table.plain .enablePhaseDelay)
  | .setShutterSpeed speed =>
    .ok (pairPayload p.table.shutter.subOpcode p.table.shutter.opcode (shutterBytes p speed))
  | .adjustPhaseDelay a => .ok (adjustPayload p .phaseDelay a)
  | .adjustWhiteBalanceRB a => .ok (adjustPayload p .whiteBalanceRB a)
  | .adjustWhiteBalanceMG a => .ok (adjustPayload p .whiteBalanceMG a)
  | .adjustGain a => .ok (adjustPayload p .gain a)
  | .adjustIrisLevel a => .ok (adjustPayload p .irisLevel a)
  | .adjustIrisPeak a => .ok (adjustPayload p .irisPeak a)
  | .query => .ok (p.table.plain .query)

/-- The expansion of an extended command: validate, compute the payload, issue one FNEW; the draft is not used
(R163). A rejection issues nothing (R171). -/
def ExtCommand.expand (p : HostParams) (address : Byte) (c : ExtCommand) : Except Cause Instr :=
  match c.payload p with
  | .ok q => .ok (.fnew address q.subOpcode q.opcode q.dataHi q.dataLo)
  | .error e => .error e

/-! ### Requests and transport (R174 to R176) -/

/-- The requests of a list of operations, in order. -/
def issue (ops : List Instr) : List Input := ops.map fun i => .request (encode i)

/-- The failures of the host layer (R171, R175, R190): a domain rule, or a transport failure with its cause. -/
inductive HostError (ε : Type) where
  | invalidValue (cause : Cause)
  | io (underlying : ε)
  deriving DecidableEq, Repr

/-- The transport: "a duplex byte-stream capability exposing `read(buffer) -> bytes_read` and `write(buffer) ->
bytes_written` plus `flush()`" (R174). `σ` is the channel, `ε` its I/O errors. The last two fields are parameters: what
`send` does when `write` reports another count than it was given bytes, and whether it flushes, is not in the source
(R175, N18, U16). The short-write policy is given the whole frame, the count and the channel; DESIGN CHOICE (log 14). -/
structure Transport (σ ε : Type) where
  read : Nat → σ → Except ε (List Byte × σ)
  write : List Byte → σ → Except ε (Nat × σ)
  flush : σ → Except ε σ
  shortWrite : List Byte → Nat → σ → Except ε σ
  sendFlushes : Bool

/-- The rest of `send` once the write has been accepted in full. -/
def Transport.finishSend {σ ε : Type} (t : Transport σ ε) (ch : σ) : Except ε σ :=
  if t.sendFlushes then t.flush ch else .ok ch

/-- `send(frame)`: "writes the frame's full 7 bytes and propagates any I/O failure as an I/O error" (R175). After a short
write the policy decides all that follows, the flush included: `sendFlushes` speaks of a full write only. `send` reads no
response: reading is `receive`, a call of its own. The source is silent on all three (N18); DESIGN CHOICE (log 14). -/
def Transport.send {σ ε : Type} (t : Transport σ ε) (frame : List Byte) (ch : σ) : Except (HostError ε) σ :=
  let sent :=
    match t.write frame ch with
    | .ok (n, ch') => if n = frame.length then t.finishSend ch' else t.shortWrite frame n ch'
    | .error e => .error e
  match sent with
  | .ok ch' => .ok ch'
  | .error e => .error (.io e)

/-- What the receive path ends with: a complete response, as the RCLS that hands it to the block, or the bytes got so
far, which are no response yet and are not handed over (R176). -/
inductive Received where
  | complete (i : Instr)
  | incomplete (bytes : List Byte)
  deriving DecidableEq, Repr

/-- Read until `n` bytes are in hand or the reads allowed are used up: each read asks for what is missing. An I/O error
ends it, and an error in a second or later read drops the bytes read before it: what becomes of them is left to the
platform (R51). DESIGN CHOICE (log 14). -/
def Transport.collect {σ ε : Type} (t : Transport σ ε) (n : Nat) :
    (reads : Nat) → List Byte → σ → Except ε (List Byte × σ)
  | 0, got, ch => .ok (got, ch)
  | reads + 1, got, ch =>
    if got.length < n then
      match t.read (n - got.length) ch with
      | .ok (bytes, ch') => t.collect n reads (got ++ bytes) ch'
      | .error e => .error e
    else .ok (got, ch)

/-- The receive path: "one complete response at a time with its length" becomes one RCLS (R176); anything but exactly
`n` bytes is not handed to the block. How the bytes of a response reach RCLS is left to the platform (R51): that the
host knows the length `n` beforehand, asks again after a read of fewer bytes, and gives up after `reads` reads is the
model's DESIGN CHOICE (log 14). -/
def Transport.receive {σ ε : Type} (t : Transport σ ε) (n reads : Nat) (ch : σ) :
    Except (HostError ε) (Received × σ) :=
  match t.collect n reads [] ch with
  | .ok (bytes, ch') => .ok (if bytes.length = n then .complete (.rcls bytes) else .incomplete bytes, ch')
  | .error e => .error (.io e)

/-! ### Bookkeeping the host owes the validator (R172) -/

/-- `occ`: byte 6 of a command frame (R12, R172). -/
def originatingChecksum (frame : List Byte) : Option Byte := frame[6]?

/-- The host's side of the exchanges in progress: the channel, and byte 6 of every command frame sent whose response has
not been validated yet, in the order sent. That it is a list, and that the host names its entry by place, is the model's
DESIGN CHOICE (log 17): which command a response answers is the host's to know (R226, N17). -/
structure Exchanges (σ : Type) where
  channel : σ
  kept : List Byte
  deriving DecidableEq, Repr

/-- Send a command frame and keep its byte 6 (R172, R175). A frame that could not be sent leaves nothing to keep. -/
def Exchanges.sendCommand {σ ε : Type} (t : Transport σ ε) (frame : List Byte) (x : Exchanges σ) :
    Except (HostError ε) (Exchanges σ) :=
  match t.send frame x.channel with
  | .ok ch => .ok { channel := ch, kept := x.kept ++ (originatingChecksum frame).toList }
  | .error e => .error e

/-- The RVAL that judges the response held as the answer to the `k`-th command kept: its byte 6 is handed over as occ
(R172). The byte stays kept: RVAL may be repeated (R135). -/
def Exchanges.validation {σ : Type} (k : Nat) (x : Exchanges σ) : Option Instr := (x.kept[k]?).map .rval

/-- The response has been validated once RVAL has returned a verdict, valid or not: the byte is kept no longer. Any other
result leaves it. That a verdict of "not valid" ends the keeping too is DESIGN CHOICE (log 17). -/
def Exchanges.settle {σ : Type} (k : Nat) (result : List Byte) (x : Exchanges σ) : Exchanges σ :=
  if result = [0x00, verdictByte true] ∨ result = [0x00, verdictByte false] then
    { x with kept := x.kept.eraseIdx k }
  else x

end Sys2Proof.Machine.HostLayer
end

