-- ==== Sys2Proof/Safety.lean ====
section
/-! DEFINITION. The terms claims are stated in: the integer sum a checksum stands for, well-formed frames
(spec/41_frame_formatter.md R114), the forms a result may have (spec/30_encoding.md R79, spec/60_exceptions.md R191,
R192), the invariant of every step, which states no operation can tell apart (spec/00_scope.md R13), what a list of
draft operations folds to (spec/41_frame_formatter.md R123), and which requests R81 calls illegal. -/

namespace Sys2Proof.Machine

/-- The sum of a byte sequence over the integers (R100). -/
def byteSum (b : List Byte) : Nat := (b.map BitVec.toNat).sum

/-- Well-formed frames (R114): seven bytes, F[0] = 0xFF, F[6] the sum of F[1 ..< 6] modulo 256. -/
def wellFormedFrame (f : List Byte) : Bool :=
  f.length == 7 && f[0]? == some 0xFF && f[6]? == some (BitVec.ofNat 8 (byteSum (slice f 1 6)))

/-! ### Forms of results -/

/-- The lengths of the four kinds (R26). -/
def responseLengths : List Nat := [0, 4, 7, 18]

/-- The result bytes an OK status may carry: none, one byte (a checksum, a kind code, a verdict), a frame of seven, or
a length n of one of the four kinds and then n bytes (R79). -/
def payloadForm (payload : List Byte) : Bool :=
  match payload with
  | [] => true
  | n :: b => b.length == 0 || b.length == 6 || (responseLengths.contains n.toNat && b.length == n.toNat)

/-- The forms of INVALID_VALUE the block returns: `01 n` with n no response length, `02 n 07` with n not 7 (R192). The
causes 03 and 04 of the host layer are not among them. -/
def causeForm (info : List Byte) : Bool :=
  match info with
  | [c, n] => c == 0x01 && !responseLengths.contains n.toNat
  | [c, n, expected] => c == 0x02 && n != 0x07 && expected == 0x07
  | _ => false

/-- A result as R79 and R191 lay it out: status 00 and result bytes, 01 and a cause, or 02 or 03 alone. -/
def resultForm (r : List Byte) : Bool :=
  match r with
  | [] => false
  | status :: rest =>
    (status == 0x00 && payloadForm rest) || (status == 0x01 && causeForm rest) ||
      ((status == 0x02 || status == 0x03) && rest == [])

/-- The invariant: every result returned so far has one of the forms of R79. -/
def ResultsHaveForm (s : State) : Prop := ∀ r ∈ s.results, resultForm r = true

/-! ### What no operation can tell apart -/

/-- Two states agree on everything an operation may depend on: DCRE; the draft, where one exists; RK and the
significant bytes; what the outside does; the results so far. They may differ in the padding (R28), in the draft
registers while DCRE = 0 (R34), and in the free bytes still to be drawn. -/
def sameObservable (s t : State) : Prop :=
  s.dcre = t.dcre ∧ (s.dcre = true → s.draft = t.draft) ∧ s.rk = t.rk ∧
    significant s.toBlock = significant t.toBlock ∧ s.inputs = t.inputs ∧ s.results = t.results

/-! ### Lists of draft operations (R123) -/

/-- DRSTF with a selector of 1 to 4. -/
def isDrstfWithSelector : Instr → Bool
  | .drstf f => selectorAllowed f
  | _ => false

/-- The operations R123 allows between DNEW and DFIN: DOR1, DOR2, DSET1, DSET2, DSTOP, and DRSTF with a selector. -/
def isDraftEdit (i : Instr) : Bool :=
  [Opcode.dor1, .dor2, .dset1, .dset2, .dstop].contains i.opcode || isDrstfWithSelector i

/-- The operation clears the field with this selector: DNEW, DSTOP, or DRSTF of it (R123). -/
def clearsField (selector : Byte) : Instr → Bool
  | .dnew _ | .dstop => true
  | .drstf f => f == selector
  | _ => false

/-- The operations of a history issued since the last one that cleared the field, latest first. -/
def sinceCleared (selector : Byte) (history : List Instr) : List Instr :=
  history.reverse.takeWhile fun i => !clearsField selector i

/-- The operand of a DOR1 (of a DOR2, DSET1, DSET2). -/
def dor1Operand : Instr → Option Byte
  | .dor1 m => some m
  | _ => none
def dor2Operand : Instr → Option Byte
  | .dor2 m => some m
  | _ => none
def dset1Operand : Instr → Option Byte
  | .dset1 v => some v
  | _ => none
def dset2Operand : Instr → Option Byte
  | .dset2 v => some v
  | _ => none

/-- The OR of all bytes of a list. -/
def orAll (ms : List Byte) : Byte := ms.foldr (fun m acc => m ||| acc) 0

/-- The draft R123 gives for `DNEW a` and a history: cmd1 and cmd2 the OR of the operands since the last clear, data1
and data2 the operand of the last write since the last clear, or 0. -/
def foldedDraft (a : Byte) (history : List Instr) : Draft where
  da := a
  dc1 := orAll ((sinceCleared 1 history).filterMap dor1Operand)
  dc2 := orAll ((sinceCleared 2 history).filterMap dor2Operand)
  dd1 := ((sinceCleared 3 history).filterMap dset1Operand).head?.getD 0
  dd2 := ((sinceCleared 4 history).filterMap dset2Operand).head?.getD 0

/-! ### Groups of operations -/

/-- The eight draft operations (R23). -/
def isDraftOperation (i : Instr) : Bool :=
  [Opcode.dnew, .dor1, .dor2, .dset1, .dset2, .dstop, .drstf, .dfin].contains i.opcode

/-- The operations refused while DCRE = 0: the draft operations but DNEW; a DRSTF with a bad selector is refused for
its form first (R195, R200). -/
def needsDraft (i : Instr) : Bool :=
  [Opcode.dor1, .dor2, .dset1, .dset2, .dstop, .dfin].contains i.opcode || isDrstfWithSelector i

/-- The operations that write no state: CSUM, FNEW, FCONV, DFIN, RKIND, RBYTES, RVAL (R14, R56). -/
def isReadOnly (i : Instr) : Bool :=
  [Opcode.csum, .fnew, .fconv, .dfin, .rkind, .rbytes, .rval].contains i.opcode

/-- The operations R56 calls idempotent: DSTOP, DRSTF, DSET1, DSET2, DOR1, DOR2, DNEW. -/
def isIdempotent (i : Instr) : Bool :=
  [Opcode.dstop, .drstf, .dset1, .dset2, .dor1, .dor2, .dnew].contains i.opcode

/-- The operations that work from any state alike: CSUM, FNEW, FCONV, RCLS, DNEW (R35, R222). -/
def needsNoSetup (i : Instr) : Bool := [Opcode.csum, .fnew, .fconv, .rcls, .dnew].contains i.opcode

/-! ### Runs -/

/-- `k` steps of the machine, as the host's interface runs them. -/
def run (k : Nat) (s : State) : Host.Outcome State Fault Refusal := Sys2Proof.core.run k s

/-! ### Illegal requests (R81) -/

/-- The codes of R78. -/
def operationCodes : List Byte :=
  [0x01, 0x02, 0x03, 0x10, 0x11, 0x12, 0x13, 0x14, 0x15, 0x16, 0x17, 0x20, 0x21, 0x22, 0x23]

/-- The codes of the format S operations CSUM, FCONV, RCLS. -/
def sequenceCodes : List Byte := [0x01, 0x03, 0x20]

/-- How many operand bytes a format F operation takes: five for FNEW, none for DSTOP, DFIN, RKIND, RBYTES, one for the
others (R78). -/
def fixedOperands (op : Byte) : Nat :=
  if op = 0x02 then 5 else if op ∈ ([0x15, 0x17, 0x22, 0x23] : List Byte) then 0 else 1

/-- The cases of R81. -/
def illegalRequest (nMax : Nat) (b : List Byte) : Prop :=
  match b with
  | [] => True
  | op :: rest =>
    op ∉ operationCodes ∨
      (op ∈ sequenceCodes ∧
        match rest with
        | [] => True
        | n :: bytes => nMax < n.toNat ∨ bytes.length ≠ n.toNat) ∨
      (op ∉ sequenceCodes ∧ rest.length ≠ fixedOperands op) ∨
      (op = 0x16 ∧ ∃ f, rest = [f] ∧ f ∉ ([1, 2, 3, 4] : List Byte))

end Sys2Proof.Machine
end

