-- ==== Sys2Proof/Certificates/Slice0/Obligations.lean ====
section
/-! DEFINITION. The statements for the provers, from the numbered rules of spec/. Request bytes, status bytes and kind
codes are the spec's own choices (spec/92_eei_decisions.md D3, D4). No statement rests on a value of a free byte (log 2)
or on a register's value at reset that the model names (log 3). -/

open Sys2Proof Sys2Proof.Machine Sys2Proof.Machine.HostLayer

/-! ### Encoding and decoding -/

/-- R77, R78: under every N_MAX the spec allows, the decoder gives back every well-formed instruction from its request,
each operand at every value. -/
def Obligations.DecodeOfEncodeIsTheInstruction : Prop :=
  ∀ nMax, Config.nMaxAllowed nMax → ∀ i : Instr, i.wf nMax = true → decodeWith nMax (encode i) = .ok i

/-- R77, R78, R81: whatever byte string the decoder accepts is the request of a well-formed instruction, so no two
requests spell one operation. -/
def Obligations.EncodeOfDecodeIsTheRequest : Prop :=
  ∀ nMax b i, decodeWith nMax b = .ok i → i.wf nMax = true ∧ encode i = b

/-- R81, R194: the decoder refuses exactly the requests R81 calls illegal, and such a request gets the result `02` and
changes no state. The rule is the spec's decision D9. -/
def Obligations.IllegalRequestsAreAnsweredIllegalOp : Prop :=
  ∀ nMax, Config.nMaxAllowed nMax → ∀ (b : List Byte) (s : State) (rest : List Input), s.inputs = .request b :: rest →
    ((∃ e, decodeWith nMax b = .error e) ↔ illegalRequest nMax b) ∧
      (illegalRequest nMax b → stepWith nMax s = .next { s with inputs := rest, results := s.results ++ [[0x02]] })

/-- Requests written out from R78 and R84 and standing in spec/95_test_vectors.md, at least two a unit, and three illegal
ones (R81). A sanity statement. -/
def Obligations.RequestsFromTheSpecDecode : Prop :=
  decode [0x01, 0x05, 0x0A, 0x88, 0x90, 0x00, 0x40] = .ok (.csum [0x0A, 0x88, 0x90, 0x00, 0x40]) ∧
    decode [0x01, 0x02, 0xFF, 0x01] = .ok (.csum [0xFF, 0x01]) ∧
    decode [0x02, 0x0A, 0x88, 0x90, 0x00, 0x40] = .ok (.fnew 0x0A 0x88 0x90 0x00 0x40) ∧
    decode [0x10, 0x0A] = .ok (.dnew 0x0A) ∧ decode [0x16, 0x01] = .ok (.drstf 0x01) ∧ decode [0x17] = .ok .dfin ∧
    decode [0x20, 0x04, 0xFF, 0x0A, 0x00, 0x62] = .ok (.rcls [0xFF, 0x0A, 0x00, 0x62]) ∧
    decode [0x21, 0x46] = .ok (.rval 0x46) ∧ decode [0x23] = .ok .rbytes ∧
    decode [0x24] = .error (.unknownCode 0x24) ∧ decode [0x16, 0x05] = .error (.badSelector 0x05) ∧
    decode [0x17, 0x00] = .error .wrongLength

/-! ### Steps -/

/-- R31, R57: a request whose bytes decode to an instruction is taken from the host's list and that instruction runs,
with nothing else done around it; the machine's own step is the one with the default N_MAX = 255. -/
def Obligations.StepRunsTheDecodedInstruction : Prop :=
  (∀ nMax (s : State) b rest i, s.inputs = .request b :: rest → decodeWith nMax b = .ok i →
    stepWith nMax s = exec i { s with inputs := rest }) ∧
  ∀ s, step s = stepWith 255 s

/-- R31, R16: with no request presented the block waits, and nothing changes. That a step is taken at all then is the
model's convention (log 4, DEDUCED). -/
def Obligations.BlockWaitsForARequest : Prop := ∀ nMax (s : State), s.inputs = [] → stepWith nMax s = .next s

/-- R220: the reset event puts the block in a state with DCRE = 0 and RK = None, returns no result, and a request in
progress counts as not performed. The other registers are unspecified and nothing is said of them (log 3). -/
def Obligations.ResetEventEntersTheResetState : Prop :=
  ∀ nMax (s : State) rest, (s.inputs = .reset :: rest ∨ ∃ b, s.inputs = .resetDuring b :: rest) →
    ∃ t, stepWith nMax s = .next t ∧ t.dcre = false ∧ t.rk = .none ∧ t.inputs = rest ∧ t.results = s.results

/-- R34: the values the spec gives for the state after reset, with no request issued and no result returned. -/
def Obligations.ResetStateHasTheSpecifiedValues : Prop :=
  State.reset.dcre = false ∧ State.reset.rk = .none ∧ State.reset.inputs = [] ∧ State.reset.results = []

/-- R35 (the spec's own inference): straight after reset RKIND returns None, RBYTES 0 bytes, RVAL valid for any operand;
the seven draft operations but DNEW return NO_DRAFT; CSUM, FNEW, FCONV, RCLS and DNEW return what they return from any
other state, and DNEW and a successful RCLS leave the draft and the response they leave from any other state. -/
def Obligations.ConsequencesOfTheResetState : Prop :=
  exec .rkind State.reset = .next { State.reset with results := [[0x00, 0x00]] } ∧
    exec .rbytes State.reset = .next { State.reset with results := [[0x00, 0x00]] } ∧
    (∀ occ, exec (.rval occ) State.reset = .next { State.reset with results := [[0x00, 0x01]] }) ∧
    (∀ i, needsDraft i = true → exec i State.reset = .next { State.reset with results := [[0x03]] }) ∧
    ∀ i, needsNoSetup i = true → ∀ s, ∃ t u r, exec i State.reset = .next t ∧ exec i s = .next u ∧
      t.results = [r] ∧ u.results = s.results ++ [r] ∧
      (∀ a, i = .dnew a → t.draft = u.draft ∧ t.dcre = u.dcre) ∧
      (∀ b, i = .rcls b → b.length ∈ responseLengths → t.rk = u.rk ∧ significant t.toBlock = significant u.toBlock)

/-- R13 (the spec's own inference): every operation is a total function: from every state it ends, with exactly one
result, and never touches what the host will issue. -/
def Obligations.EveryOperationEndsWithOneResult : Prop :=
  ∀ i (s : State), ∃ t r, exec i s = .next t ∧ t.results = s.results ++ [r] ∧ t.inputs = s.inputs

/-- R13, R16, R202 (inferences and decisions of the spec's own): the machine never stops: no fault, no refusal, whatever
the state and whatever the host issues. -/
def Obligations.EveryStepAnswersANextState : Prop := ∀ nMax (s : State), ∃ t, stepWith nMax s = .next t

/-- R57, R233: a list of requests, of any bytes, is answered in order, one result a request; the results returned before
stay as they are. -/
def Obligations.EveryRequestGetsOneResultInOrder : Prop :=
  ∀ (s : State) (reqs : List (List Byte)) (rest : List Input), s.inputs = reqs.map .request ++ rest →
    ∃ t new, run reqs.length s = .next t ∧ t.inputs = rest ∧ t.results = s.results ++ new ∧
      new.length = reqs.length

/-! ### Checksum unit -/

/-- R100, R101: CSUM returns the sum of the bytes modulo 256, for a sequence of any length, and changes nothing else; the
request of a sequence of at most 255 bytes is the code, the length byte and the bytes. -/
def Obligations.CsumReturnsTheSumModulo256 : Prop :=
  ∀ (b : List Byte) (s : State),
    (b.length ≤ 255 → encode (.csum b) = 0x01 :: BitVec.ofNat 8 b.length :: b) ∧
    exec (.csum b) s = .next { s with results := s.results ++ [[0x00, BitVec.ofNat 8 (byteSum b)]] }

/-- R103: the accumulator is the integer sum modulo 2^32, its low byte the integer sum modulo 256 for every length; a
sequence of at most 255 bytes sums to at most 65,025, and none shorter than 16,843,010 bytes overflows the accumulator.
The wrap is the spec's decision D10. -/
def Obligations.AccumulatorHoldsTheSum : Prop :=
  ∀ b : List Byte, (accumulate b).toNat = byteSum b % 2 ^ 32 ∧ (accumulate b).toNat % 256 = byteSum b % 256 ∧
    (b.length ≤ 255 → byteSum b ≤ 65025) ∧
    (b.length < 16843010 → (accumulate b).toNat = byteSum b)

/-- R104 (a) to (d), (f) (the spec's own inference): the laws of the checksum; addition of bytes is modulo 256. -/
def Obligations.ChecksumLaws : Prop :=
  checksum [] = 0 ∧ (∀ x, checksum [x] = x) ∧
    (∀ a b, checksum (a ++ b) = checksum a + checksum b) ∧
    (∀ a b : List Byte, a.Perm b → checksum a = checksum b) ∧
    (∀ a x, checksum (a ++ [x]) = checksum a + x) ∧ ∀ a, checksum (a ++ [0x00]) = checksum a

/-! ### Frame formatter unit -/

/-- R110: frame_new is the seven bytes of the rule, and its five inputs can be read back. -/
def Obligations.FrameNewIsTheFrameAndInjective : Prop :=
  (∀ a c1 c2 d1 d2 : Byte, frameNew a c1 c2 d1 d2 =
    [0xFF, a, c1, c2, d1, d2, BitVec.ofNat 8 (byteSum [a, c1, c2, d1, d2])]) ∧
  ∀ a c1 c2 d1 d2 a' c1' c2' d1' d2' : Byte, frameNew a c1 c2 d1 d2 = frameNew a' c1' c2' d1' d2' →
    a = a' ∧ c1 = c1' ∧ c2 = c2' ∧ d1 = d1' ∧ d2 = d2'

/-- R111: FNEW returns the frame of its five bytes, whatever they are, and writes no state. -/
def Obligations.FnewReturnsTheFrame : Prop :=
  ∀ (a c1 c2 d1 d2 : Byte) (s : State), encode (.fnew a c1 c2 d1 d2) = [0x02, a, c1, c2, d1, d2] ∧
    exec (.fnew a c1 c2 d1 d2) s = .next { s with results := s.results ++
      [[0x00, 0xFF, a, c1, c2, d1, d2, BitVec.ofNat 8 (byteSum [a, c1, c2, d1, d2])]] }

/-- R112, R113: FCONV returns any seven bytes unchanged, and for any other length InvalidValue naming the observed
length and the expected size 7; it writes no state. -/
def Obligations.FconvReturnsSevenBytesUnchanged : Prop :=
  ∀ (b : List Byte) (s : State), b.length ≤ 255 → encode (.fconv b) = 0x03 :: BitVec.ofNat 8 b.length :: b ∧
    (b.length = 7 → exec (.fconv b) s = .next { s with results := s.results ++ [0x00 :: b] }) ∧
    (b.length ≠ 7 → exec (.fconv b) s =
      .next { s with results := s.results ++ [[0x01, 0x02, BitVec.ofNat 8 b.length, 0x07]] })

/-- R115: DNEW writes the address, clears the four fields and sets DCRE, with or without a draft in being, and DFIN at
once then gives the all-zero frame to that address; no other operation changes DA. -/
def Obligations.DnewCreatesAClearDraft : Prop :=
  ∀ (a : Byte) (s : State), encode (.dnew a) = [0x10, a] ∧
    (∃ t, t = { s with
        dcre := true, draft := { da := a, dc1 := 0, dc2 := 0, dd1 := 0, dd2 := 0 }, results := s.results ++ [[0x00]] } ∧
      exec (.dnew a) s = .next t ∧
      exec .dfin t = .next { t with results := t.results ++ [[0x00, 0xFF, a, 0x00, 0x00, 0x00, 0x00, a]] }) ∧
    ∀ i t, exec i s = .next t → t.draft.da ≠ s.draft.da → ∃ a', i = .dnew a'

/-- R116, R117: DOR1 and DOR2 OR their operand into their field; without a draft they return NO_DRAFT and write nothing.
-/
def Obligations.DorAddsBits : Prop :=
  ∀ (m : Byte) (s : State), encode (.dor1 m) = [0x11, m] ∧ encode (.dor2 m) = [0x12, m] ∧
    (s.dcre = true →
      exec (.dor1 m) s = .next { s with
        draft := { s.draft with dc1 := s.draft.dc1 ||| m }, results := s.results ++ [[0x00]] } ∧
      exec (.dor2 m) s = .next { s with
        draft := { s.draft with dc2 := s.draft.dc2 ||| m }, results := s.results ++ [[0x00]] }) ∧
    (s.dcre = false →
      exec (.dor1 m) s = .next { s with results := s.results ++ [[0x03]] } ∧
      exec (.dor2 m) s = .next { s with results := s.results ++ [[0x03]] })

/-- R118, R119: DSET1 and DSET2 overwrite their field with any byte; without a draft they return NO_DRAFT and write
nothing. -/
def Obligations.DsetOverwritesData : Prop :=
  ∀ (v : Byte) (s : State), encode (.dset1 v) = [0x13, v] ∧ encode (.dset2 v) = [0x14, v] ∧
    (s.dcre = true →
      exec (.dset1 v) s = .next { s with
        draft := { s.draft with dd1 := v }, results := s.results ++ [[0x00]] } ∧
      exec (.dset2 v) s = .next { s with
        draft := { s.draft with dd2 := v }, results := s.results ++ [[0x00]] }) ∧
    (s.dcre = false →
      exec (.dset1 v) s = .next { s with results := s.results ++ [[0x03]] } ∧
      exec (.dset2 v) s = .next { s with results := s.results ++ [[0x03]] })

/-- R120: DSTOP clears the four fields and keeps the address; without a draft it returns NO_DRAFT and writes nothing. -/
def Obligations.DstopClearsFieldsKeepsAddress : Prop :=
  ∀ s : State, encode .dstop = [0x15] ∧
    (s.dcre = true → exec .dstop s = .next { s with
      draft := { da := s.draft.da, dc1 := 0, dc2 := 0, dd1 := 0, dd2 := 0 }, results := s.results ++ [[0x00]] }) ∧
    (s.dcre = false → exec .dstop s = .next { s with results := s.results ++ [[0x03]] })

/-- R121, R200: DRSTF clears the one selected field; a selector outside 1 to 4 is ILLEGAL_OP whether or not a draft
exists, and a good selector without a draft is NO_DRAFT. "Reset field" as clearing the whole field is the spec's
decision D12. -/
def Obligations.DrstfClearsTheSelectedField : Prop :=
  ∀ (f : Byte) (s : State), encode (.drstf f) = [0x16, f] ∧
    (s.dcre = true → f = 1 → exec (.drstf f) s = .next { s with
      draft := { s.draft with dc1 := 0 }, results := s.results ++ [[0x00]] }) ∧
    (s.dcre = true → f = 2 → exec (.drstf f) s = .next { s with
      draft := { s.draft with dc2 := 0 }, results := s.results ++ [[0x00]] }) ∧
    (s.dcre = true → f = 3 → exec (.drstf f) s = .next { s with
      draft := { s.draft with dd1 := 0 }, results := s.results ++ [[0x00]] }) ∧
    (s.dcre = true → f = 4 → exec (.drstf f) s = .next { s with
      draft := { s.draft with dd2 := 0 }, results := s.results ++ [[0x00]] }) ∧
    (s.dcre = false → f ∈ ([1, 2, 3, 4] : List Byte) →
      exec (.drstf f) s = .next { s with results := s.results ++ [[0x03]] }) ∧
    (f ∉ ([1, 2, 3, 4] : List Byte) → exec (.drstf f) s = .next { s with results := s.results ++ [[0x02]] })

/-- R122: DFIN returns the frame of the draft and leaves the draft as it was; without a draft it returns NO_DRAFT. -/
def Obligations.DfinReturnsTheFrameOfTheDraft : Prop :=
  ∀ s : State, encode .dfin = [0x17] ∧
    (s.dcre = true → exec .dfin s = .next { s with results := s.results ++
      [[0x00, 0xFF, s.draft.da, s.draft.dc1, s.draft.dc2, s.draft.dd1, s.draft.dd2, BitVec.ofNat 8
        (byteSum [s.draft.da, s.draft.dc1, s.draft.dc2, s.draft.dd1, s.draft.dd2])]] }) ∧
    (s.dcre = false → exec .dfin s = .next { s with results := s.results ++ [[0x03]] })

/-- R114 (the spec's own inference): the frame of every FNEW and of every DFIN that returns one is well-formed, and
every well-formed frame is frame_new of its bytes 1 to 5. -/
def Obligations.FramesAreWellFormed : Prop :=
  (∀ a c1 c2 d1 d2 (s : State), ∃ f, wellFormedFrame f = true ∧
    exec (.fnew a c1 c2 d1 d2) s = .next { s with results := s.results ++ [0x00 :: f] }) ∧
  (∀ s : State, s.dcre = true → ∃ f, wellFormedFrame f = true ∧
    exec .dfin s = .next { s with results := s.results ++ [0x00 :: f] }) ∧
  ∀ f, wellFormedFrame f = true → ∃ a c1 c2 d1 d2, f = frameNew a c1 c2 d1 d2 ∧ slice f 1 6 = [a, c1, c2, d1, d2]

/-- R123 (the spec's own inference): DNEW a, any history of DOR1, DOR2, DSET1, DSET2, DSTOP, DRSTF, then DFIN, issued as
requests from any state: every operation before DFIN is OK, and DFIN returns frame_new of the fields the history folds
to. -/
def Obligations.DraftHistoryFinalizesToTheFoldedFrame : Prop :=
  ∀ (a : Byte) (history : List Instr) (s : State) (rest : List Input), (∀ i ∈ history, isDraftEdit i = true) →
    s.inputs = issue (.dnew a :: (history ++ [.dfin])) ++ rest →
    ∃ t, run (history.length + 2) s = .next t ∧ t.inputs = rest ∧ t.draft = foldedDraft a history ∧
      t.results = s.results ++ List.replicate (history.length + 1) [0x00] ++
        [0x00 :: frameNew a (foldedDraft a history).dc1 (foldedDraft a history).dc2 (foldedDraft a history).dd1
          (foldedDraft a history).dd2]

/-! ### Which operation may change what -/

/-- R24, R124: a bit enters DC1 or DC2 only by the OR of DOR1 or DOR2, and leaves only when the whole field is cleared,
by DNEW, DSTOP or DRSTF of that field. -/
def Obligations.BitmaskBitsLeaveOnlyByWholeFieldClear : Prop :=
  ∀ i (s t : State) (k : Nat), exec i s = .next t →
    (s.draft.dc1.getLsbD k = true → t.draft.dc1.getLsbD k = false →
      t.draft.dc1 = 0 ∧ ((∃ a, i = .dnew a) ∨ i = .dstop ∨ i = .drstf 1)) ∧
    (s.draft.dc1.getLsbD k = false → t.draft.dc1.getLsbD k = true → ∃ m, i = .dor1 m ∧ m.getLsbD k = true) ∧
    (s.draft.dc2.getLsbD k = true → t.draft.dc2.getLsbD k = false →
      t.draft.dc2 = 0 ∧ ((∃ a, i = .dnew a) ∨ i = .dstop ∨ i = .drstf 2)) ∧
    (s.draft.dc2.getLsbD k = false → t.draft.dc2.getLsbD k = true → ∃ m, i = .dor2 m ∧ m.getLsbD k = true)

/-- R23: no operation other than the eight draft operations writes the draft registers or DCRE, and none reads them:
with any other draft and DCRE in their place it does the same to everything else. A frame returned is a copy: no
operation changes a result returned before. -/
def Obligations.OtherOperationsNeitherReadNorWriteTheDraft : Prop :=
  (∀ i, isDraftOperation i = false → ∀ (s : State) (d : Draft) (c : Bool),
    ∃ t, exec i s = .next t ∧ t.draft = s.draft ∧ t.dcre = s.dcre ∧
      exec i { s with draft := d, dcre := c } = .next { t with draft := d, dcre := c }) ∧
  ∀ i (s t : State), exec i s = .next t → s.results <+: t.results

/-- R20, the "written by" column (the registers are the spec's decisions D5, D6): each register changes only under the
operations listed for it. R13, R79: an operation adds exactly one result to those returned. The last clause, on
`freeCount`, is about the model's own counter of free bytes (log 2) and rests on no rule: it moves under RCLS alone. -/
def Obligations.RegistersChangeOnlyUnderTheirWriters : Prop :=
  ∀ i (s t : State), exec i s = .next t →
    (t.dcre ≠ s.dcre → ∃ a, i = .dnew a) ∧
    (t.draft.da ≠ s.draft.da → ∃ a, i = .dnew a) ∧
    (t.draft.dc1 ≠ s.draft.dc1 → (∃ a, i = .dnew a) ∨ (∃ m, i = .dor1 m) ∨ i = .dstop ∨ i = .drstf 1) ∧
    (t.draft.dc2 ≠ s.draft.dc2 → (∃ a, i = .dnew a) ∨ (∃ m, i = .dor2 m) ∨ i = .dstop ∨ i = .drstf 2) ∧
    (t.draft.dd1 ≠ s.draft.dd1 → (∃ a, i = .dnew a) ∨ (∃ v, i = .dset1 v) ∨ i = .dstop ∨ i = .drstf 3) ∧
    (t.draft.dd2 ≠ s.draft.dd2 → (∃ a, i = .dnew a) ∨ (∃ v, i = .dset2 v) ∨ i = .dstop ∨ i = .drstf 4) ∧
    (t.rk ≠ s.rk ∨ t.rb ≠ s.rb → ∃ b, i = .rcls b) ∧
    (∃ r, t.results = s.results ++ [r]) ∧
    (t.freeCount ≠ s.freeCount → ∃ b, i = .rcls b)

/-- R25, R36 (d) (the spec's own decision D8 and inference): over a step, whatever the input, DCRE goes from 1 to 0 only
by the reset event, and from 0 to 1 only by the request of a DNEW. -/
def Obligations.DcreRisesByDnewAndFallsByReset : Prop :=
  ∀ nMax (s t : State), stepWith nMax s = .next t →
    (s.dcre = true → t.dcre = false →
      (∃ rest, s.inputs = .reset :: rest) ∨ ∃ b rest, s.inputs = .resetDuring b :: rest) ∧
    (s.dcre = false → t.dcre = true → ∃ a rest, s.inputs = .request [0x10, a] :: rest)

/-- R56 (the spec's own inference): DSTOP, DRSTF, DSET1, DSET2, DOR1, DOR2 and DNEW, done twice with the same operand,
leave the state of once. -/
def Obligations.DraftWritesAreIdempotent : Prop :=
  ∀ i, isIdempotent i = true → ∀ s : State, ∃ t u, exec i s = .next t ∧ exec i t = .next u ∧ u.toBlock = t.toBlock

/-- R14, R56 (the spec's own inferences): CSUM, FNEW, FCONV, DFIN, RKIND, RBYTES and RVAL leave the state unchanged and
return the same result when repeated. -/
def Obligations.ReadsHaveNoSideEffect : Prop :=
  ∀ i, isReadOnly i = true → ∀ s : State, ∃ r, exec i s = .next { s with results := s.results ++ [r] } ∧
    exec i { s with results := s.results ++ [r] } = .next { s with results := s.results ++ [r, r] }

/-! ### Response classifier and checksum validator unit -/

/-- R130, R26: the kinds and their lengths, each the inverse of the other. -/
def Obligations.KindOfLengthInvertsLength : Prop :=
  (lenOf .none = 0 ∧ lenOf .general = 4 ∧ lenOf .extended = 7 ∧ lenOf .query = 18) ∧
    ∀ n k, kindOfLength n = some k ↔ lenOf k = n

/-- R131: a response of 0, 4, 7 or 18 bytes is loaded, kind and bytes together, and its kind code returned; any other
length returns InvalidValue with the observed length and leaves everything, the response held before too, as it was.
Nothing is said of the padding. -/
def Obligations.RclsClassifiesByLength : Prop :=
  ∀ (b : List Byte) (s : State), b.length ≤ 255 → encode (.rcls b) = 0x20 :: BitVec.ofNat 8 b.length :: b ∧
    (∀ n k code, (n, k, code) ∈
        ([(0, .none, 0x00), (4, .general, 0x01), (7, .extended, 0x02), (18, .query, 0x03)] : List (Nat × Kind × Byte)) →
      b.length = n → ∃ t, exec (.rcls b) s = .next t ∧ t.rk = k ∧ t.rb.toList.take n = b ∧ t.dcre = s.dcre ∧
        t.draft = s.draft ∧ t.inputs = s.inputs ∧ t.results = s.results ++ [[0x00, code]]) ∧
    (b.length ∉ ([0, 4, 7, 18] : List Nat) → exec (.rcls b) s =
      .next { s with results := s.results ++ [[0x01, 0x01, BitVec.ofNat 8 b.length]] })

/-- R132: RKIND returns the kind code of the response held and writes nothing; after reset, and after RCLS of an empty
response, the kind is None. -/
def Obligations.RkindReturnsTheKind : Prop :=
  (∀ s : State, encode .rkind = [0x22] ∧
    (s.rk = .none → exec .rkind s = .next { s with results := s.results ++ [[0x00, 0x00]] }) ∧
    (s.rk = .general → exec .rkind s = .next { s with results := s.results ++ [[0x00, 0x01]] }) ∧
    (s.rk = .extended → exec .rkind s = .next { s with results := s.results ++ [[0x00, 0x02]] }) ∧
    (s.rk = .query → exec .rkind s = .next { s with results := s.results ++ [[0x00, 0x03]] })) ∧
  State.reset.rk = .none ∧
  ∀ s : State, ∃ t, exec (.rcls []) s = .next t ∧
    exec .rkind t = .next { t with results := t.results ++ [[0x00, 0x00]] }

/-- R133: RBYTES returns the length its kind implies and exactly that many bytes of RB, never padding, and writes
nothing; after an RCLS they are exactly the bytes given to it, in the same order. -/
def Obligations.RbytesReturnsTheSignificantBytes : Prop :=
  ∀ s : State, encode .rbytes = [0x23] ∧
    (s.rk = .none → exec .rbytes s = .next { s with results := s.results ++ [[0x00, 0x00]] }) ∧
    (s.rk = .general → exec .rbytes s =
      .next { s with results := s.results ++ [([0x00, 0x04, s.rb[0], s.rb[1], s.rb[2], s.rb[3]] : List Byte)] }) ∧
    (s.rk = .extended → exec .rbytes s = .next { s with results := s.results ++
      [([0x00, 0x07, s.rb[0], s.rb[1], s.rb[2], s.rb[3], s.rb[4], s.rb[5], s.rb[6]] : List Byte)] }) ∧
    (s.rk = .query → exec .rbytes s = .next { s with results := s.results ++ [0x00 :: 0x12 :: s.rb.toList] }) ∧
    ∀ b, b.length ∈ responseLengths → ∃ t, exec (.rcls b) s = .next t ∧
      exec .rbytes t = .next { t with results := t.results ++ [0x00 :: BitVec.ofNat 8 b.length :: b] }

/-- R134, R135: RVAL returns 01 or 00 by the relation of the kind held, sums over the integers modulo 256, and writes
nothing. -/
def Obligations.RvalReturnsTheVerdictOfTheKind : Prop :=
  ∀ (occ : Byte) (s : State), encode (.rval occ) = [0x21, occ] ∧
    ∃ v : Byte, exec (.rval occ) s = .next { s with results := s.results ++ [[0x00, v]] } ∧ (v = 0x00 ∨ v = 0x01) ∧
      (s.rk = .none → v = 0x01) ∧
      (s.rk = .general → (v = 0x01 ↔ (occ.toNat + s.rb[2].toNat) % 256 = s.rb[3].toNat)) ∧
      (s.rk = .extended → (v = 0x01 ↔
        (s.rb[1].toNat + s.rb[2].toNat + s.rb[3].toNat + s.rb[4].toNat + s.rb[5].toNat) % 256 = s.rb[6].toNat)) ∧
      (s.rk = .query → (v = 0x01 ↔
        (byteSum ((s.rb.toList.drop 1).take 16) + occ.toNat) % 256 = s.rb[17].toNat))

/-- R138 (the spec's own inference): for a General or Query response exactly one originating checksum validates; for
None and Extended the operand plays no part. -/
def Obligations.OneOriginatingChecksumValidates : Prop :=
  ∀ s : State,
    (s.rk = .general ∨ s.rk = .query →
      ∃ good, ∀ occ, exec (.rval occ) s =
        .next { s with results := s.results ++ [[0x00, if occ = good then 0x01 else 0x00]] }) ∧
    (s.rk = .none ∨ s.rk = .extended → ∀ occ occ', exec (.rval occ) s = exec (.rval occ') s)

/-- R76, R137 (the spec's own inferences): no verdict depends on offset 0, and the verdict on a General response does
not depend on offset 1: with any byte there RVAL returns the same. -/
def Obligations.VerdictIgnoresSyncAndGeneralAddress : Prop :=
  ∀ (occ x : Byte) (s : State), ∃ v,
    exec (.rval occ) s = .next { s with results := s.results ++ [[0x00, v]] } ∧
    exec (.rval occ) { s with rb := s.rb.set 0 x } =
      .next { s with rb := s.rb.set 0 x, results := s.results ++ [[0x00, v]] } ∧
    (s.rk = .general → exec (.rval occ) { s with rb := s.rb.set 1 x } =
      .next { s with rb := s.rb.set 1 x, results := s.results ++ [[0x00, v]] })

/-- R139 (the spec's own inference): every frame FNEW returns, and the frame of any draft, looped back into RCLS, is
classified Extended and validates, whatever occ is. -/
def Obligations.FormattedFramesValidateWhenLoopedBack : Prop :=
  ∀ (a c1 c2 d1 d2 occ : Byte) (s : State), ∃ f t,
    exec (.fnew a c1 c2 d1 d2) s = .next { s with results := s.results ++ [0x00 :: f] } ∧
    exec (.rcls f) s = .next t ∧ t.rk = .extended ∧ t.results = s.results ++ [[0x00, 0x02]] ∧
    exec (.rval occ) t = .next { t with results := t.results ++ [[0x00, 0x01]] } ∧
    (s.dcre = true → s.draft = { da := a, dc1 := c1, dc2 := c2, dd1 := d1, dd2 := d2 } →
      exec .dfin s = .next { s with results := s.results ++ [0x00 :: f] })

/-- R133, R61: "The bytes returned are exactly those given to the RCLS that loaded them": after a response is loaded,
any requests that are no RCLS, legal or not, leave it in place, and RBYTES returns its bytes. -/
def Obligations.LoadedResponseIsReturnedUntilReplaced : Prop :=
  ∀ (b : List Byte) (reqs : List (List Byte)) (s : State) (rest : List Input), b.length ∈ responseLengths →
    (∀ q ∈ reqs, q.head? ≠ some 0x20) →
    s.inputs = .request (encode (.rcls b)) :: (reqs.map .request ++ .request [0x23] :: rest) →
    ∃ t, run (reqs.length + 2) s = .next t ∧ t.inputs = rest ∧
      t.results.getLast? = some (0x00 :: BitVec.ofNat 8 b.length :: b)

/-! ### Failures -/

/-- R197: a request whose result has a status other than OK leaves the whole state as it was; the result is `02`, `03`,
`01 01 n` or `01 02 n 07`, so it carries no frame, no kind and no verdict. -/
def Obligations.FailureChangesNothing : Prop :=
  ∀ nMax (s t : State) b rest r, s.inputs = .request b :: rest → stepWith nMax s = .next t →
    t.results = s.results ++ [r] → r.head? ≠ some 0x00 →
    t = { s with inputs := rest, results := s.results ++ [r] } ∧
      (r = [0x02] ∨ r = [0x03] ∨ (∃ n, r = [0x01, 0x01, n]) ∨ ∃ n, r = [0x01, 0x02, n, 0x07])

/-- R193: InvalidValue is raised at exactly two places, by RCLS and by FCONV on a wrong length; its result records the
observed length, and for FCONV the expected length 7 too; no register is written. The length byte is stated for sequences
a request can carry, of at most 255 bytes (log 13). -/
def Obligations.InvalidValueOnlyFromWrongLengths : Prop :=
  ∀ i (s t : State) r, exec i s = .next t → t.results = s.results ++ [r] →
    (r.head? = some 0x01 ↔
      (∃ b, i = .rcls b ∧ b.length ∉ responseLengths) ∨ ∃ b, i = .fconv b ∧ b.length ≠ 7) ∧
    (r.head? = some 0x01 → t = { s with results := s.results ++ [r] }) ∧
    (∀ b, i = .rcls b → b.length ≤ 255 → b.length ∉ responseLengths →
      r = [0x01, 0x01, BitVec.ofNat 8 b.length]) ∧
    ∀ b, i = .fconv b → b.length ≤ 255 → b.length ≠ 7 → r = [0x01, 0x02, BitVec.ofNat 8 b.length, 0x07]

/-- R195, R200: NO_DRAFT is returned exactly by DOR1, DOR2, DSET1, DSET2, DSTOP, DFIN and DRSTF with a selector, exactly
when DCRE = 0; no register is written then. NO_DRAFT is the spec's decision D8. -/
def Obligations.NoDraftExactlyBeforeTheFirstDnew : Prop :=
  ∀ i (s t : State), exec i s = .next t →
    (t.results = s.results ++ [[0x03]] ↔ needsDraft i = true ∧ s.dcre = false) ∧
      (needsDraft i = true → s.dcre = false → t = { s with results := s.results ++ [[0x03]] })

/-! ### The machine as a whole -/

/-- R79, R191, R192: over every step, under every N_MAX, the results keep the forms of R79. -/
def Obligations.ResultFormsAreKeptByEveryStep : Prop :=
  ∀ nMax (s t : State), ResultsHaveForm s → stepWith nMax s = .next t → ResultsHaveForm t

/-- The invariant of the result forms holds right after reset. -/
def Obligations.ResultFormsHoldAtReset : Prop := ResultsHaveForm State.reset

/-- R13, R28, R34: no operation's result depends on the padding of RB, on the draft registers while DCRE = 0, or on the
free bytes still to be drawn: two states that agree on all else step to states that agree on all else, their results
among it. -/
def Obligations.StepsPreserveObservableAgreement : Prop :=
  ∀ nMax (s t : State), sameObservable s t →
    ∃ s' t', stepWith nMax s = .next s' ∧ stepWith nMax t = .next t' ∧ sameObservable s' t'

/-- R34: after reset DCRE = 0 and RK = None, and whatever the unspecified registers hold then, every run gives the same
results: the values the model names for them (log 3) reach no result. -/
def Obligations.UnspecifiedResetValuesReachNoResult : Prop :=
  State.reset.dcre = false ∧ State.reset.rk = .none ∧
    ∀ (d : Draft) (buffer : Vector Byte 18) (draws : Nat) (inputs : List Input) (k : Nat), ∃ t u,
      run k { State.reset with inputs := inputs } = .next t ∧
      run k { State.reset with draft := d, rb := buffer, freeCount := draws, inputs := inputs } = .next u ∧
      t.results = u.results ∧ t.inputs = u.inputs

/-! ### The host command layer (no part of the block) -/

/-- R160, R161, R162: a fraction is clamped to [0, 1] and mapped to the nearest of 0 to 63, the upper one at a tie (the
spec's decision D22); Turbo is 0xFF; not-a-number is refused. -/
def Obligations.SpeedIsClampedAndRounded : Prop :=
  (∀ q : Rat, ∃ v : Byte, speedToByte (.range (.rational q)) = some v ∧ v.toNat ≤ 63 ∧
    (q ≤ 0 → v.toNat = 0) ∧ (1 ≤ q → v.toNat = 63) ∧
    (0 ≤ q → q ≤ 1 → (v.toNat : Rat) - 1 / 2 ≤ 63 * q ∧ 63 * q < (v.toNat : Rat) + 1 / 2)) ∧
  speedToByte .turbo = some 0xFF ∧ speedToByte (.range .notANumber) = none

/-- R164: preset id 0 is rejected, every other id is accepted and travels in dataLo; flip-180 and go-to-zero-pan are
go-to-preset with the ids 0x21 and 0x22. -/
def Obligations.PresetZeroIsRejected : Prop :=
  ∀ (p : HostParams) (a : Byte),
    (ExtCommand.setPreset 0).expand p a = .error .presetZero ∧
    (ExtCommand.clearPreset 0).expand p a = .error .presetZero ∧
    (ExtCommand.goToPreset 0).expand p a = .error .presetZero ∧
    (∀ id : Byte, id ≠ 0 → ∀ c ∈ [ExtCommand.setPreset id, .clearPreset id, .goToPreset id],
      ∃ c1 c2 d1, c.expand p a = .ok (.fnew a c1 c2 d1 id)) ∧
    (ExtCommand.goToPreset 0x21).expand p a = ExtCommand.flip180.expand p a ∧
    (ExtCommand.goToPreset 0x22).expand p a = ExtCommand.goToZeroPan.expand p a

/-- R165: a character with a code point above 127 is rejected; any other is accepted and its code is a data
byte, the rule does not say which. -/
def Obligations.NonAsciiCharacterIsRejected : Prop :=
  ∀ (p : HostParams) (a column : Byte) (ch : Char),
    (127 < ch.toNat → (ExtCommand.writeCharToScreen column ch).expand p a = .error .nonAscii) ∧
    (ch.toNat ≤ 127 → ∃ c1 c2 d1 d2, (ExtCommand.writeCharToScreen column ch).expand p a = .ok (.fnew a c1 c2 d1 d2) ∧
      (d1.toNat = ch.toNat ∨ d2.toNat = ch.toNat))

/-- R163: every extended command expands to one FNEW to its address with its payload, or is rejected. That it is
rejected for preset id 0 (R164) or a non-ASCII character (R165) and for nothing else, a delta of any size included, is
the model's reading of the spec's silence on other arguments (N22, N13; log 16). -/
def Obligations.ExtendedCommandsExpandToOneFnew : Prop :=
  ∀ (p : HostParams) (a : Byte) (c : ExtCommand),
    (∃ q, c.payload p = .ok q ∧ c.expand p a = .ok (.fnew a q.subOpcode q.opcode q.dataHi q.dataLo)) ∨
    (c.expand p a = .error .presetZero ∧ (c = .setPreset 0 ∨ c = .clearPreset 0 ∨ c = .goToPreset 0)) ∨
    (c.expand p a = .error .nonAscii ∧ ∃ column ch, c = .writeCharToScreen column ch ∧ 127 < ch.toNat)

/-- R153 to R157, R173: the one draft operation of the block each builder method expands to, with its operand;
`camera_on` is DOR1 0x88 by the sum the source fixes, `up()` to `right()` are `direction` of the same name (a direction
is one of the four constants, log 18), `tilt(Turbo)` is accepted and writes 0xFF. The operands of zoom and scan are
parameters (N10); with parameters as the source relates them, each of the ten named bit methods ORs exactly one or two
bits into cmd1 or cmd2. That a not-a-number speed, and nothing else, has no expansion is the choice of log 8 (R161,
D22). -/
def Obligations.BuilderMethodsExpandToDraftOperations : Prop :=
  ∀ p : HostParams,
    (∀ d, Method.expand p (.direction d) = some (.dor2 (d.toCmd2 p.bits))) ∧
    (Method.expand p .up = Method.expand p (.direction .up) ∧ Method.expand p .down = Method.expand p (.direction .down) ∧
      Method.expand p .left = Method.expand p (.direction .left) ∧
      Method.expand p .right = Method.expand p (.direction .right)) ∧
    (∀ speed v, speedToByte speed = some v →
      Method.expand p (.pan speed) = some (.dset1 v) ∧ Method.expand p (.tilt speed) = some (.dset2 v)) ∧
    Method.expand p .stop = some .dstop ∧
    (p.bits.wf = true → Method.expand p .cameraOn = some (.dor1 0x88)) ∧
    Method.expand p .cameraOff = some (.dor1 p.bits.cameraOnOff) ∧
    Method.expand p .focusFar = some (.dor2 p.bits.focusFar) ∧
    Method.expand p .focusNear = some (.dor1 p.bits.focusNear) ∧
    Method.expand p .openIris = some (.dor1 p.bits.irisOpen) ∧
    Method.expand p .closeIris = some (.dor1 p.bits.irisClose) ∧
    (∃ zin zout, Method.expand p .zoomIn = some (.dor2 zin) ∧ Method.expand p .zoomOut = some (.dor2 zout)) ∧
    (∃ auto manual, Method.expand p .autoScan = some (.dor1 auto) ∧ Method.expand p .manualScan = some (.dor1 manual)) ∧
    (p.sourced → ∀ m ∈ ([.cameraOn, .cameraOff, .focusFar, .focusNear, .openIris, .closeIris, .zoomIn, .zoomOut,
        .autoScan, .manualScan] : List Method), ∃ b, oneOrTwoBits b = true ∧
      (Method.expand p m = some (.dor1 b) ∨ Method.expand p m = some (.dor2 b))) ∧
    (∀ m i, Method.expand p m = some i → isDraftEdit i = true) ∧
    (∀ m, Method.expand p m = none ↔ m = .pan (.range .notANumber) ∨ m = .tilt (.range .notANumber)) ∧
    Method.expand p (.tilt .turbo) = some (.dset2 0xFF)

/-- R158, R124: with the sum the source fixes for SENSE and CAMERA_ON_OFF, `camera_on()` then `camera_off()` on one
draft gives the frame with cmd1 = 0x88, as `camera_on()` alone does; with DRSTF 1 between them, `camera_off()` gives its
own bit alone. -/
def Obligations.CameraOffDoesNotUndoCameraOn : Prop :=
  ∀ (p : HostParams) (a : Byte) (on off : Instr) (s : State) (rest : List Input), p.bits.wf = true →
    Method.expand p .cameraOn = some on → Method.expand p .cameraOff = some off →
    (s.inputs = issue [.dnew a, on, .dfin] ++ rest →
      ∃ t, run 3 s = .next t ∧ t.results.getLast? = some (0x00 :: frameNew a 0x88 0 0 0)) ∧
    (s.inputs = issue [.dnew a, on, off, .dfin] ++ rest →
      ∃ t, run 4 s = .next t ∧ t.results.getLast? = some (0x00 :: frameNew a 0x88 0 0 0)) ∧
    (s.inputs = issue [.dnew a, on, .drstf 1, off, .dfin] ++ rest →
      ∃ t, run 5 s = .next t ∧ t.results.getLast? = some (0x00 :: frameNew a p.bits.cameraOnOff 0 0 0))

/-- R54, R166, R168, R169: a 16-bit shutter speed, and the 16 bits of an adjustment in either mode, travel big-endian, high
byte in data1 and low byte in data2; the two modes of an adjustment share their opcode byte and, with the parameters as
the source relates them, differ in the leading byte. How a delta becomes 16 bits is a parameter (log 16). -/
def Obligations.SixteenBitValuesAreBigEndian : Prop :=
  ∀ (p : HostParams) (a : Byte) (v : BitVec 16) (d : Int),
    (∃ c1 c2 hi lo, (ExtCommand.setShutterSpeed (.value v)).expand p a = .ok (.fnew a c1 c2 hi lo) ∧
      hi.toNat * 256 + lo.toNat = v.toNat) ∧
    ∀ f ∈ ([.adjustPhaseDelay, .adjustGain, .adjustWhiteBalanceRB, .adjustWhiteBalanceMG, .adjustIrisLevel,
        .adjustIrisPeak] : List (Adjustment → ExtCommand)),
      ∃ c1 c1' c2 hi lo hi' lo',
        (f (.absolute v)).expand p a = .ok (.fnew a c1 c2 hi lo) ∧ hi.toNat * 256 + lo.toNat = v.toNat ∧
        (f (.delta d)).expand p a = .ok (.fnew a c1' c2 hi' lo') ∧
        hi'.toNat * 256 + lo'.toNat = (p.delta16 d).toNat ∧ (p.sourced → c1 ≠ c1')

/-- R175: `send` hands the transport the frame's bytes; an I/O error comes back as Io with its cause; a write of all of
them succeeds, with the flush the transport's parameters ask for. That `send` then ends in exactly the channel the write
and the flush leave rests on the model's choice that it reads no response (N18; log 14, DESIGN CHOICE). What a short
write does is a parameter (U16) and nothing is said of it. -/
def Obligations.SendWritesTheFrameAndPropagatesIoErrors : Prop :=
  ∀ (σ ε : Type) (t : Transport σ ε) (frame : List Byte) (ch : σ),
    (∀ e, t.write frame ch = .error e → t.send frame ch = .error (.io e)) ∧
    (∀ ch', t.write frame ch = .ok (frame.length, ch') →
      (t.sendFlushes = false → t.send frame ch = .ok ch') ∧
      (t.sendFlushes = true → (∀ ch'', t.flush ch' = .ok ch'' → t.send frame ch = .ok ch'') ∧
        ∀ e, t.flush ch' = .error e → t.send frame ch = .error (.io e)))

/-- R172: byte 6 of a command frame sent is kept with those of the frames sent before, is what RVAL is given as occ for
that command, also after further frames are sent, and is kept until RVAL has returned a verdict; R135: RVAL may be
repeated. The list, its places and that either verdict ends the keeping are the model's choice (log 17). -/
def Obligations.HostKeepsTheOriginatingChecksum : Prop :=
  ∀ (σ ε : Type) (t : Transport σ ε) (frame : List Byte) (occ : Byte) (x x' : Exchanges σ), frame[6]? = some occ →
    Exchanges.sendCommand t frame x = .ok x' →
    x'.kept = x.kept ++ [occ] ∧ x'.validation x.kept.length = some (.rval occ) ∧
    (∀ next x'', Exchanges.sendCommand t next x' = .ok x'' → x''.validation x.kept.length = some (.rval occ)) ∧
    (∀ r, r = [0x00, 0x00] ∨ r = [0x00, 0x01] → (x'.settle x.kept.length r).kept = x.kept) ∧
    ∀ r k, r ≠ [0x00, 0x00] → r ≠ [0x00, 0x01] → x'.settle k r = x'

/-- R176: what the receive path hands to the block is the RCLS of a complete response, of exactly the length asked for; a
read of fewer bytes is completed by another, and what stays incomplete is not handed over. The empty response needs no
read. An I/O error comes back as Io (R204). Asking again, and the number of reads allowed, are the model's choice
(log 14). -/
def Obligations.ReceiveHandsOverCompleteResponses : Prop :=
  ∀ (σ ε : Type) (t : Transport σ ε) (n reads : Nat) (ch : σ),
    (∀ r ch', t.receive n reads ch = .ok (r, ch') →
      (∃ b, b.length = n ∧ r = .complete (.rcls b)) ∨ ∃ b, b.length ≠ n ∧ r = .incomplete b) ∧
    (∀ b b' ch' ch'', t.read n ch = .ok (b, ch') → b.length < n → t.read (n - b.length) ch' = .ok (b', ch'') →
      b.length + b'.length = n → 2 ≤ reads → t.receive n reads ch = .ok (.complete (.rcls (b ++ b')), ch'')) ∧
    (∀ e, t.read n ch = .error e → 0 < n → 0 < reads → t.receive n reads ch = .error (.io e)) ∧
    t.receive 0 reads ch = .ok (.complete (.rcls []), ch)
end

