-- ==== Sys2Proof/Laws/Checksum.lean ====
section
/-! SUPPORT. The accumulator of spec/40_checksum.md R101 in integer terms (R103). -/

namespace Sys2Proof.Machine

@[simp] theorem byteSum_nil : byteSum [] = 0 := rfl
@[simp] theorem byteSum_cons (x : Byte) (b : List Byte) : byteSum (x :: b) = x.toNat + byteSum b := by simp [byteSum]
@[simp] theorem byteSum_append (a b : List Byte) : byteSum (a ++ b) = byteSum a + byteSum b := by simp [byteSum]

/-- A sequence of n bytes sums to at most 255 n. -/
theorem byteSum_le (b : List Byte) : byteSum b ≤ 255 * b.length := by
  induction b with
  | nil => simp
  | cons x b ih => have := x.isLt; simp only [byteSum_cons, List.length_cons]; omega

/-- Adding bytes to an accumulator adds their integer sum modulo 2^32. -/
theorem toNat_foldl_add (b : List Byte) (acc : Acc) :
    (b.foldl (fun acc x => acc + zext32 x) acc).toNat = (acc.toNat + byteSum b) % 2 ^ 32 := by
  induction b generalizing acc with
  | nil => simp [Nat.mod_eq_of_lt acc.isLt]
  | cons x b ih =>
    have hx := x.isLt
    rw [List.foldl_cons, ih, byteSum_cons, BitVec.toNat_add, zext32, BitVec.toNat_setWidth]
    omega

/-- The low byte of the accumulator is the integer sum modulo 256, since 256 divides 2^32 (R103). -/
theorem toNat_low8_accumulate (b : List Byte) : (low8 (accumulate b)).toNat = byteSum b % 256 := by
  rw [low8, BitVec.toNat_setWidth, accumulate, toNat_foldl_add]
  have h0 : (0 : Acc).toNat = 0 := rfl
  omega

end Sys2Proof.Machine
end

