-- ==== Sys2Proof/Laws/Decode.lean ====
section
/-! SUPPORT. What each part of the decoder accepts: the operation codes of spec/30_encoding.md R78, the operand forms of
R77, and the shape of every encoded request. -/

namespace Sys2Proof

/-- Each code names its own operation: no two rows of R78 share one. -/
@[simp] theorem Opcode.ofByte_code (o : Opcode) : Opcode.ofByte o.code = some o := by cases o <;> rfl

/-- A byte names an operation only as that operation's code. -/
theorem Opcode.code_of_ofByte {op : Byte} {o : Opcode} (h : Opcode.ofByte op = some o) : o.code = op := by
  simpa using List.find?_some h

/-- A byte that names no operation is the code of none. -/
theorem Opcode.ofByte_eq_none_iff {op : Byte} : Opcode.ofByte op = none ↔ ∀ o : Opcode, o.code ≠ op := by
  constructor
  · rintro h o rfl; simp at h
  · intro h
    cases ho : Opcode.ofByte op with
    | none => rfl
    | some o => exact absurd (Opcode.code_of_ofByte ho) (h o)

/-- A format S operand is accepted exactly as its length byte and then that many bytes, no more than N_MAX (R77). -/
theorem decodeSequence_eq_ok_iff {nMax : Nat} {rest b : List Byte} :
    decodeSequence nMax rest = .ok b ↔ sequenceFits nMax b = true ∧ rest = encodeSequence b := by
  cases rest with
  | nil => simp [decodeSequence, encodeSequence]
  | cons n bytes =>
    have hn := n.isLt
    simp only [decodeSequence, encodeSequence, sequenceFits, Bool.and_eq_true, decide_eq_true_eq, List.cons.injEq]
    split_ifs with h₁ h₂
    · simp only [false_iff]
      rintro ⟨⟨hb, hb'⟩, rfl, rfl⟩
      simp at h₁; omega
    · simp only [Except.ok.injEq]
      constructor
      · rintro rfl
        exact ⟨⟨by omega, by omega⟩, by apply BitVec.eq_of_toNat_eq; simp [h₂], rfl⟩
      · rintro ⟨-, -, rfl⟩; rfl
    · simp only [false_iff]
      rintro ⟨⟨hb, hb'⟩, rfl, rfl⟩
      simp at h₂; omega

theorem decodeByte_eq_ok_iff {rest : List Byte} {v : Byte} : decodeByte rest = .ok v ↔ rest = [v] := by
  rcases rest with _ | ⟨x, _ | ⟨y, ys⟩⟩ <;> simp [decodeByte]

theorem decodeNothing_eq_ok_iff {rest : List Byte} {i j : Instr} : decodeNothing i rest = .ok j ↔ rest = [] ∧ j = i := by
  cases rest <;> simp [decodeNothing, eq_comm]

/-- Mapping a constructor over a decoded operand. -/
theorem map_eq_ok_iff {ε α β : Type} {f : α → β} {x : Except ε α} {y : β} :
    x.map f = .ok y ↔ ∃ a, x = .ok a ∧ y = f a := by
  cases x <;> simp [Except.map, eq_comm]

/-- Every encoded request starts with its operation's code. -/
theorem encode_eq_cons (i : Instr) : encode i = i.opcode.code :: i.operandBytes := rfl

end Sys2Proof
end

