-- ==== Sys2Proof/Laws/HostLayer.lean ====
section
/-! SUPPORT. One lemma per shared operation of the host layer: big-endian serialisation, the quantiser's only refusal,
presets, `send`, the collecting of a response, and the bookkeeping. -/

namespace Sys2Proof.Machine.HostLayer

/-- `be16` loses nothing: the two bytes are the value again, high byte first (spec/45_host_command_layer.md R169). -/
theorem be16_toNat (v : BitVec 16) : (be16 v).1.toNat * 256 + (be16 v).2.toNat = v.toNat := by
  have := v.isLt
  simp [be16, BitVec.extractLsb'_toNat, Nat.shiftRight_eq_div_pow]; omega

/-- Only a not-a-number fraction has no byte (R161, R162). -/
theorem speedToByte_eq_none {speed : Speed} : speedToByte speed = none ↔ speed = .range .notANumber := by
  rcases speed with (q | _) | _ <;> simp [speedToByte]

theorem presetPayload_zero (p : HostParams) (row : PresetRow) : presetPayload p row 0 = .error .presetZero := rfl

theorem presetPayload_of_ne {p : HostParams} {row : PresetRow} {id : Byte} (h : id ≠ 0) :
    presetPayload p row id = .ok (pairPayload (p.table.preset row).subOpcode (p.table.preset row).opcode
      ((p.table.preset row).dataHi, id)) := if_neg h

/-- One of the two bytes is the argument, the other the row's. -/
theorem placeBytes_cases (place : DataPlace) (arg other : Byte) :
    placeBytes place arg other = (arg, other) ∨ placeBytes place arg other = (other, arg) := by
  cases place
  · exact .inl rfl
  · exact .inr rfl

/-! ### Transport -/

variable {σ ε : Type} {t : Transport σ ε}

theorem send_of_error {frame : List Byte} {ch : σ} {e : ε} (h : t.write frame ch = .error e) :
    t.send frame ch = .error (.io e) := by simp [Transport.send, h]

/-- A write of all the bytes: what is left is the flush, if the parameters ask for one. -/
theorem send_of_full {frame : List Byte} {ch ch' : σ} (h : t.write frame ch = .ok (frame.length, ch')) :
    t.send frame ch = (t.finishSend ch').mapError .io := by
  simp only [Transport.send, h, if_true]
  cases t.finishSend ch' <;> rfl

theorem collect_of_enough {n reads : Nat} {got : List Byte} {ch : σ} (h : n ≤ got.length) :
    t.collect n reads got ch = .ok (got, ch) := by
  cases reads
  · rfl
  · simp [Transport.collect, Nat.not_lt.2 h]

/-- A read that is due: its bytes are added and collecting goes on, or its error ends it. -/
theorem collect_of_missing {n reads : Nat} {got : List Byte} {ch : σ} (h : got.length < n) :
    t.collect n (reads + 1) got ch =
      match t.read (n - got.length) ch with
      | .ok (bytes, ch') => t.collect n reads (got ++ bytes) ch'
      | .error e => .error e := by
  cases hr : t.read (n - got.length) ch <;> simp [Transport.collect, h, hr]

/-- Everything `receive` can answer: a complete response of exactly `n` bytes, an incomplete one, an I/O error. -/
theorem receive_cases (t : Transport σ ε) (n reads : Nat) (ch : σ) :
    (∃ b ch', b.length = n ∧ t.receive n reads ch = .ok (.complete (.rcls b), ch')) ∨
    (∃ b ch', b.length ≠ n ∧ t.receive n reads ch = .ok (.incomplete b, ch')) ∨
    ∃ e, t.receive n reads ch = .error (.io e) := by
  unfold Transport.receive
  cases t.collect n reads [] ch with
  | error e => exact .inr (.inr ⟨e, rfl⟩)
  | ok r =>
    by_cases h : r.1.length = n
    · exact .inl ⟨r.1, r.2, h, by simp [h]⟩
    · exact .inr (.inl ⟨r.1, r.2, h, by simp [h]⟩)

/-! ### Bookkeeping -/

/-- Sending keeps byte 6 of the frame after the bytes kept before, and nothing else (R172). -/
theorem sendCommand_kept {frame : List Byte} {x x' : Exchanges σ} (h : Exchanges.sendCommand t frame x = .ok x') :
    x'.kept = x.kept ++ (originatingChecksum frame).toList := by
  unfold Exchanges.sendCommand at h
  split at h
  · cases h; rfl
  · cases h

/-- A byte kept is still at its place after another frame is sent. -/
theorem sendCommand_validation {frame : List Byte} {x x' : Exchanges σ} {k : Nat} (hk : k < x.kept.length)
    (h : Exchanges.sendCommand t frame x = .ok x') : x'.validation k = x.validation k := by
  simp only [Exchanges.validation, sendCommand_kept h, List.getElem?_append_left hk]

end Sys2Proof.Machine.HostLayer
end

