-- ==== Sys2Proof/Laws/State.lean ====
section
/-! SUPPORT. One lemma per field per update of the state (Machine/Ops.lean), so that no proof unfolds a record update.
A field no update touches is carried by `toBlock` where the whole block stays. -/

namespace Sys2Proof.Machine

/-! ### respond -/

@[simp] theorem respond_toBlock (r : Result) (s : State) : (respond r s).toBlock = s.toBlock := rfl
@[simp] theorem respond_dcre (r : Result) (s : State) : (respond r s).dcre = s.dcre := rfl
@[simp] theorem respond_draft (r : Result) (s : State) : (respond r s).draft = s.draft := rfl
@[simp] theorem respond_rk (r : Result) (s : State) : (respond r s).rk = s.rk := rfl
@[simp] theorem respond_rb (r : Result) (s : State) : (respond r s).rb = s.rb := rfl
@[simp] theorem respond_inputs (r : Result) (s : State) : (respond r s).inputs = s.inputs := rfl
@[simp] theorem respond_results (r : Result) (s : State) : (respond r s).results = s.results ++ [r.bytes] := rfl
@[simp] theorem respond_freeCount (r : Result) (s : State) : (respond r s).freeCount = s.freeCount := rfl

/-! ### writeDraft -/

@[simp] theorem writeDraft_dcre (d : Draft) (s : State) : (writeDraft d s).dcre = s.dcre := rfl
@[simp] theorem writeDraft_draft (d : Draft) (s : State) : (writeDraft d s).draft = d := rfl
@[simp] theorem writeDraft_rk (d : Draft) (s : State) : (writeDraft d s).rk = s.rk := rfl
@[simp] theorem writeDraft_rb (d : Draft) (s : State) : (writeDraft d s).rb = s.rb := rfl
@[simp] theorem writeDraft_inputs (d : Draft) (s : State) : (writeDraft d s).inputs = s.inputs := rfl
@[simp] theorem writeDraft_results (d : Draft) (s : State) : (writeDraft d s).results = s.results := rfl
@[simp] theorem writeDraft_freeCount (d : Draft) (s : State) : (writeDraft d s).freeCount = s.freeCount := rfl

/-! ### createDraft -/

@[simp] theorem createDraft_dcre (d : Draft) (s : State) : (createDraft d s).dcre = true := rfl
@[simp] theorem createDraft_draft (d : Draft) (s : State) : (createDraft d s).draft = d := rfl
@[simp] theorem createDraft_rk (d : Draft) (s : State) : (createDraft d s).rk = s.rk := rfl
@[simp] theorem createDraft_rb (d : Draft) (s : State) : (createDraft d s).rb = s.rb := rfl
@[simp] theorem createDraft_inputs (d : Draft) (s : State) : (createDraft d s).inputs = s.inputs := rfl
@[simp] theorem createDraft_results (d : Draft) (s : State) : (createDraft d s).results = s.results := rfl
@[simp] theorem createDraft_freeCount (d : Draft) (s : State) : (createDraft d s).freeCount = s.freeCount := rfl

/-! ### loadResponse -/

@[simp] theorem loadResponse_dcre (k : Kind) (b : List Byte) (s : State) : (loadResponse k b s).dcre = s.dcre := rfl
@[simp] theorem loadResponse_draft (k : Kind) (b : List Byte) (s : State) : (loadResponse k b s).draft = s.draft := rfl
@[simp] theorem loadResponse_rk (k : Kind) (b : List Byte) (s : State) : (loadResponse k b s).rk = k := rfl
@[simp] theorem loadResponse_rb (k : Kind) (b : List Byte) (s : State) :
    (loadResponse k b s).rb = loadedBuffer b s.freeCount := rfl
@[simp] theorem loadResponse_inputs (k : Kind) (b : List Byte) (s : State) :
    (loadResponse k b s).inputs = s.inputs := rfl
@[simp] theorem loadResponse_results (k : Kind) (b : List Byte) (s : State) :
    (loadResponse k b s).results = s.results := rfl
@[simp] theorem loadResponse_freeCount (k : Kind) (b : List Byte) (s : State) :
    (loadResponse k b s).freeCount = s.freeCount + 18 := rfl

/-! ### takeInput -/

@[simp] theorem takeInput_toBlock (rest : List Input) (s : State) : (takeInput rest s).toBlock = s.toBlock := rfl
@[simp] theorem takeInput_dcre (rest : List Input) (s : State) : (takeInput rest s).dcre = s.dcre := rfl
@[simp] theorem takeInput_draft (rest : List Input) (s : State) : (takeInput rest s).draft = s.draft := rfl
@[simp] theorem takeInput_rk (rest : List Input) (s : State) : (takeInput rest s).rk = s.rk := rfl
@[simp] theorem takeInput_rb (rest : List Input) (s : State) : (takeInput rest s).rb = s.rb := rfl
@[simp] theorem takeInput_inputs (rest : List Input) (s : State) : (takeInput rest s).inputs = rest := rfl
@[simp] theorem takeInput_results (rest : List Input) (s : State) : (takeInput rest s).results = s.results := rfl
@[simp] theorem takeInput_freeCount (rest : List Input) (s : State) : (takeInput rest s).freeCount = s.freeCount := rfl

/-! ### The draft's own updates -/

@[simp] theorem Draft.new_eq (a : Byte) : Draft.new a = { da := a, dc1 := 0, dc2 := 0, dd1 := 0, dd2 := 0 } := rfl
@[simp] theorem Draft.or1_eq (m : Byte) (d : Draft) : d.or1 m = { d with dc1 := d.dc1 ||| m } := rfl
@[simp] theorem Draft.or2_eq (m : Byte) (d : Draft) : d.or2 m = { d with dc2 := d.dc2 ||| m } := rfl
@[simp] theorem Draft.set1_eq (v : Byte) (d : Draft) : d.set1 v = { d with dd1 := v } := rfl
@[simp] theorem Draft.set2_eq (v : Byte) (d : Draft) : d.set2 v = { d with dd2 := v } := rfl
@[simp] theorem Draft.stop_eq (d : Draft) : d.stop = { da := d.da, dc1 := 0, dc2 := 0, dd1 := 0, dd2 := 0 } := rfl
@[simp] theorem Draft.resetField_cmd1 (d : Draft) : d.resetField .cmd1 = { d with dc1 := 0 } := rfl
@[simp] theorem Draft.resetField_cmd2 (d : Draft) : d.resetField .cmd2 = { d with dc2 := 0 } := rfl
@[simp] theorem Draft.resetField_data1 (d : Draft) : d.resetField .data1 = { d with dd1 := 0 } := rfl
@[simp] theorem Draft.resetField_data2 (d : Draft) : d.resetField .data2 = { d with dd2 := 0 } := rfl
@[simp] theorem Draft.resetField_da (f : DraftField) (d : Draft) : (d.resetField f).da = d.da := by cases f <;> rfl

/-! ### Result bytes -/

@[simp] theorem Result.bytes_ok (payload : List Byte) : (Result.ok payload).bytes = 0x00 :: payload := rfl
@[simp] theorem Result.bytes_illegalOp : (Result.raised .illegalOp).bytes = [0x02] := rfl
@[simp] theorem Result.bytes_noDraft : (Result.raised .noDraft).bytes = [0x03] := rfl
@[simp] theorem Result.bytes_responseLength (n : Byte) :
    (Result.raised (.invalidValue (.responseLength n))).bytes = [0x01, 0x01, n] := rfl
@[simp] theorem Result.bytes_frameLength (n : Byte) :
    (Result.raised (.invalidValue (.frameLength n))).bytes = [0x01, 0x02, n, 0x07] := rfl

end Sys2Proof.Machine
end

