-- ==== Sys2Proof/Laws/Ops.lean ====
section
/-! SUPPORT. What each shared operation can do, said once: returning a result, raising a failure, requiring a draft, the
buffer a load leaves, the selector of DRSTF, and the kinds. Proofs cite these and unfold nothing. -/

namespace Sys2Proof.Machine

/-! ### complete, raise, requireDraft -/

theorem complete_eq_next_iff {payload : List Byte} {s t : State} :
    complete payload s = .next t ↔ t = respond (.ok payload) s := by
  simp [complete, eq_comm]

theorem raise_eq_next_iff {f : Failure} {s t : State} : raise f s = .next t ↔ t = respond (.raised f) s := by
  simp [raise, eq_comm]

theorem requireDraft_of_draft {s : State} (h : s.dcre = true) (e : Host.Outcome State Fault Refusal) :
    requireDraft s e = e := by
  simp [requireDraft, h]

theorem requireDraft_of_noDraft {s : State} (h : s.dcre = false) (e : Host.Outcome State Fault Refusal) :
    requireDraft s e = raise .noDraft s := by
  simp [requireDraft, h]

/-- An operation that requires a draft either has its own effect, with DCRE = 1, or raises NoDraft, with DCRE = 0. -/
theorem requireDraft_eq_next {s t : State} {e : Host.Outcome State Fault Refusal} (h : requireDraft s e = .next t) :
    (s.dcre = true ∧ e = .next t) ∨ (s.dcre = false ∧ t = respond (.raised .noDraft) s) := by
  cases hd : s.dcre with
  | true => exact .inl ⟨rfl, by rwa [requireDraft_of_draft hd] at h⟩
  | false => exact .inr ⟨rfl, by rwa [requireDraft_of_noDraft hd, raise_eq_next_iff] at h⟩

/-! ### Selectors and kinds -/

theorem selectField_one : selectField 1 = some .cmd1 := rfl
theorem selectField_two : selectField 2 = some .cmd2 := rfl
theorem selectField_three : selectField 3 = some .data1 := rfl
theorem selectField_four : selectField 4 = some .data2 := rfl

/-- A selector byte names a field exactly when it is allowed. -/
theorem selectField_eq_none_iff {f : Byte} : selectField f = none ↔ selectorAllowed f = false := by
  revert f; decide

/-- The four selectors, each with its field. -/
theorem selectField_eq_some {f : Byte} {field : DraftField} (h : selectField f = some field) :
    (f = 1 ∧ field = .cmd1) ∨ (f = 2 ∧ field = .cmd2) ∨ (f = 3 ∧ field = .data1) ∨ (f = 4 ∧ field = .data2) := by
  unfold selectField at h
  split_ifs at h <;> simp_all

/-- The four lengths that have a kind. -/
theorem kindOfLength_eq_some {n : Nat} {k : Kind} (h : kindOfLength n = some k) :
    (n = 0 ∧ k = .none) ∨ (n = 4 ∧ k = .general) ∨ (n = 7 ∧ k = .extended) ∨ (n = 18 ∧ k = .query) := by
  unfold kindOfLength at h
  split_ifs at h <;> simp_all

theorem kindOfLength_eq_none_iff {n : Nat} : kindOfLength n = none ↔ n ∉ responseLengths := by
  unfold kindOfLength responseLengths
  split_ifs <;> simp_all

theorem lenOf_mem_responseLengths (k : Kind) : lenOf k ∈ responseLengths := by cases k <;> decide

theorem lenOf_le (k : Kind) : lenOf k ≤ 18 := by cases k <;> decide

/-! ### The response register -/

@[simp] theorem length_significant (s : Block) : (significant s).length = lenOf s.rk := by
  simp [significant, Nat.min_eq_left (lenOf_le s.rk)]

/-- The first bytes of a loaded buffer are the bytes loaded. -/
theorem take_loadedBuffer (b : List Byte) (draws : Nat) (h : b.length ≤ 18) :
    (loadedBuffer b draws).toList.take b.length = b := by
  apply List.ext_getElem
  · simpa [loadedBuffer] using h
  · intro i h₁ h₂
    simp [loadedBuffer, List.getElem?_eq_getElem h₂]

/-- After a load of the kind's length the significant bytes are the bytes loaded (R131, R133). -/
theorem significant_loadResponse (k : Kind) (b : List Byte) (s : State) (h : b.length = lenOf k) :
    significant (loadResponse k b s).toBlock = b := by
  have := take_loadedBuffer b s.freeCount (h ▸ lenOf_le k)
  simpa [significant, ← h] using this

/-! ### Runs -/

theorem run_zero (s : State) : run 0 s = .next s := rfl

theorem run_succ {k : Nat} {s t : State} (h : step s = .next t) : run (k + 1) s = run k t := by
  show Host.Core.run Sys2Proof.core (k + 1) s = Host.Core.run Sys2Proof.core k t
  have h' : Sys2Proof.core.step s = .next t := h
  simp [Host.Core.run, h']

/-- A run of `m + n` steps is a run of `m` and then one of `n`. -/
theorem run_add {m n : Nat} {s t : State} (h : run m s = .next t) : run (m + n) s = run n t := by
  induction m generalizing s with
  | zero => rw [run_zero] at h; cases h; simp
  | succ m ih =>
    rw [show m + 1 + n = (m + n) + 1 by omega]
    cases hs : step s with
    | next u => rw [run_succ hs] at h ⊢; exact ih h
    | fault r => cases r
    | refused r =>
      have : run (m + 1) s = .refused r := by
        show Host.Core.run Sys2Proof.core (m + 1) s = _
        have h' : Sys2Proof.core.step s = .refused r := hs
        simp only [Host.Core.run, h']
        rfl
      rw [this] at h; cases h

end Sys2Proof.Machine
end

