-- ==== Sys2Proof/Laws/PerInstr.lean ====
section
/-! SUPPORT. A statement about every instruction as syntax, one lemma a constructor: the request of a well-formed
instruction has exactly the length that its operation and its length byte imply (spec/30_encoding.md R77). -/

namespace Sys2Proof.Laws.RequestLength

/-- R77: the encoded request has the length its byte 0 and byte 1 imply. -/
def Statement (i : Instr) : Prop :=
  ∀ nMax, i.wf nMax = true → (encode i).length = i.opcode.requestLength ((encode i)[1]?.getD 0)

/-- The three format S operations. -/
theorem of_sequence {nMax : Nat} {b : List Byte} (h : sequenceFits nMax b = true) :
    (encodeSequence b).length + 1 = 2 + (((encodeSequence b)[0]?).getD 0).toNat := by
  simp only [sequenceFits, Bool.and_eq_true, decide_eq_true_eq] at h
  simp [encodeSequence]; omega

theorem csum (b : List Byte) : Statement (.csum b) := fun _ h => of_sequence h
theorem fnew (a c1 c2 d1 d2 : Byte) : Statement (.fnew a c1 c2 d1 d2) := fun _ _ => rfl
theorem fconv (b : List Byte) : Statement (.fconv b) := fun _ h => of_sequence h
theorem dnew (a : Byte) : Statement (.dnew a) := fun _ _ => rfl
theorem dor1 (m : Byte) : Statement (.dor1 m) := fun _ _ => rfl
theorem dor2 (m : Byte) : Statement (.dor2 m) := fun _ _ => rfl
theorem dset1 (v : Byte) : Statement (.dset1 v) := fun _ _ => rfl
theorem dset2 (v : Byte) : Statement (.dset2 v) := fun _ _ => rfl
theorem dstop : Statement .dstop := fun _ _ => rfl
theorem drstf (f : Byte) : Statement (.drstf f) := fun _ _ => rfl
theorem dfin : Statement .dfin := fun _ _ => rfl
theorem rcls (b : List Byte) : Statement (.rcls b) := fun _ h => of_sequence h
theorem rval (occ : Byte) : Statement (.rval occ) := fun _ _ => rfl
theorem rkind : Statement .rkind := fun _ _ => rfl
theorem rbytes : Statement .rbytes := fun _ _ => rfl

end Sys2Proof.Laws.RequestLength
end

