-- ==== Sys2Proof/Tests/Slice0.lean ====
section
/-! SUPPORT. The model's own tests. Expected values are those of spec/95_test_vectors.md (sections 1 to 3) and of the
worked examples of the operation rules, never the model's own answers. Then, for each statement with hypotheses, a
witness: a state and operands that meet all of them together. -/

namespace Sys2Proof.Tests

open Sys2Proof.Machine Sys2Proof.Machine.HostLayer

/-! ### Small states -/

/-- The bytes of a response at the front of a buffer, the padding 0xEE. -/
def bufferOf (b : List Byte) : Vector Byte 18 := Vector.mk ((List.range 18).map fun i => b.getD i 0xEE).toArray (by simp)

/-- A state with a draft. -/
def drafted (da dc1 dc2 dd1 dd2 : Byte) : State :=
  { State.reset with dcre := true, draft := { da := da, dc1 := dc1, dc2 := dc2, dd1 := dd1, dd2 := dd2 } }

/-- A state that holds a response. -/
def holding (k : Kind) (b : List Byte) : State := { State.reset with rk := k, rb := bufferOf b }

/-- A state in which the host issues one request. -/
def issuing (b : List Byte) : State := { State.reset with inputs := [.request b] }

/-- The results after a step or an operation. -/
def resultsOf : Host.Outcome State Fault Refusal → Option (List (List Byte))
  | .next t => some t.results
  | _ => none

/-- The draft and DCRE afterwards. -/
def draftOf : Host.Outcome State Fault Refusal → Option (Bool × List Byte)
  | .next t => some (t.dcre, [t.draft.da, t.draft.dc1, t.draft.dc2, t.draft.dd1, t.draft.dd2])
  | _ => none

/-- The kind and the significant bytes afterwards. -/
def responseOf : Host.Outcome State Fault Refusal → Option (Kind × List Byte)
  | .next t => some (t.rk, significant t.toBlock)
  | _ => none

/-- The Query response of the source's example, V8. -/
def queryV8 : List Byte :=
  [0xFF, 0x01, 0x44, 0x44, 0x35, 0x33, 0x43, 0x42, 0x57, 0, 0, 0, 0, 0, 0, 0, 0, 0x13]

/-! ### WellFormed: an ill-formed term for each check -/

theorem test_wf_refuses_sequence_over_nMax : Instr.wf 32 (.csum (List.replicate 33 0)) = false := by decide
theorem test_wf_refuses_sequence_over_length_byte : Instr.wf 1000 (.rcls (List.replicate 256 0)) = false := by
  simp only [Instr.wf, sequenceFits, List.length_replicate]; decide
theorem test_wf_refuses_long_fconv : Instr.wf 19 (.fconv (List.replicate 20 0)) = false := by decide
theorem test_wf_refuses_selector_zero : Instr.wf 255 (.drstf 0) = false := by decide
theorem test_wf_refuses_selector_five : Instr.wf 255 (.drstf 5) = false := by decide
theorem test_wf_accepts_edges :
    (Instr.wf 255 (.csum []) && Instr.wf 19 (.rcls (List.replicate 19 0)) && Instr.wf 255 (.drstf 4)) = true := by decide

/-! ### Decoding: a request written out from R78 for every constructor -/

theorem test_decode_csum : decode [0x01, 0x02, 0xFF, 0x01] = .ok (.csum [0xFF, 0x01]) := by decide
theorem test_decode_fnew : decode [0x02, 0x0A, 0x88, 0x90, 0x00, 0x40] = .ok (.fnew 0x0A 0x88 0x90 0x00 0x40) := by decide
theorem test_decode_fconv :
    decode [0x03, 0x06, 0xFF, 0x0A, 0x88, 0x90, 0x00, 0x40] = .ok (.fconv [0xFF, 0x0A, 0x88, 0x90, 0x00, 0x40]) := by
  decide
theorem test_decode_dnew : decode [0x10, 0x0A] = .ok (.dnew 0x0A) := by decide
theorem test_decode_dor1 : decode [0x11, 0x88] = .ok (.dor1 0x88) := by decide
theorem test_decode_dor2 : decode [0x12, 0x10] = .ok (.dor2 0x10) := by decide
theorem test_decode_dset1 : decode [0x13, 0x3F] = .ok (.dset1 0x3F) := by decide
theorem test_decode_dset2 : decode [0x14, 0x20] = .ok (.dset2 0x20) := by decide
theorem test_decode_dstop : decode [0x15] = .ok .dstop := by decide
theorem test_decode_drstf : decode [0x16, 0x04] = .ok (.drstf 4) := by decide
theorem test_decode_dfin : decode [0x17] = .ok .dfin := by decide
theorem test_decode_rcls : decode [0x20, 0x04, 0xFF, 0x0A, 0x00, 0x62] = .ok (.rcls [0xFF, 0x0A, 0x00, 0x62]) := by decide
theorem test_decode_rval : decode [0x21, 0x46] = .ok (.rval 0x46) := by decide
theorem test_decode_rkind : decode [0x22] = .ok .rkind := by decide
theorem test_decode_rbytes : decode [0x23] = .ok .rbytes := by decide

/-! The illegal requests of spec/95_test_vectors.md 2.7, one of each case. -/

theorem test_decode_empty : decode [] = .error .emptyRequest := by decide
theorem test_decode_unknown : decode [0x0F] = .error (.unknownCode 0x0F) := by decide
theorem test_decode_no_length_byte : decode [0x01] = .error .wrongLength := by decide
theorem test_decode_short_sequence : decode [0x20, 0x04, 0xFF, 0x0A, 0x00] = .error .wrongLength := by decide
theorem test_decode_long_sequence : decode [0x01, 0x02, 0x80, 0x80, 0x80] = .error .wrongLength := by decide
theorem test_decode_long_fixed : decode [0x10, 0x0A, 0x00] = .error .wrongLength := by decide
theorem test_decode_bad_selector : decode [0x16, 0x05] = .error (.badSelector 0x05) := by decide
/-- "With N_MAX set below 255 (say 32), `01 21` followed by 33 bytes is also `02`". -/
theorem test_decode_over_nMax :
    decodeWith 32 (0x01 :: 0x21 :: List.replicate 33 0) = .error (.sequenceTooLong 0x21) := by decide

/-! Words of the opcode table: one operand byte above the bits given, and operand bits within them. -/

theorem test_table_word_dnew : decodeTableWord 16 0x0A10 = some (.dnew 0x0A) := by decide
theorem test_table_word_zero_operands : decodeTableWord 8 0x02 = some (.fnew 0 0 0 0 0) := by decide
theorem test_table_word_zero_length : decodeTableWord 8 0x20 = some (.rcls []) := by decide
/-- The selector byte 0 is illegal (R81 (d)), so the bare code of DRSTF spells no operation. -/
theorem test_table_word_drstf_zero : decodeTableWord 8 0x16 = none ∧ decodeTableWord 16 0x0316 = some (.drstf 3) := by
  decide
theorem test_fetch_word_runs_next :
    responseOf (step (State.reset.withFetchWord 8 0x20)) = some (.none, []) := by decide

/-! ### CSU -/

theorem test_csum_golden_V1 :
    resultsOf (step (issuing [0x01, 0x05, 0x0A, 0x88, 0x90, 0x00, 0x40])) = some [[0x00, 0x62]] := by decide
theorem test_csum_wraps : resultsOf (exec (.csum [0xFF, 0x01]) State.reset) = some [[0x00, 0x00]] := by decide

/-! ### FFU -/

theorem test_fnew_V2 :
    resultsOf (step (issuing [0x02, 0x0A, 0x88, 0x90, 0x00, 0x40])) =
      some [[0x00, 0xFF, 0x0A, 0x88, 0x90, 0x00, 0x40, 0x62]] := by decide
theorem test_fnew_all_ones :
    resultsOf (exec (.fnew 0xFF 0xFF 0xFF 0xFF 0xFF) State.reset) =
      some [[0x00, 0xFF, 0xFF, 0xFF, 0xFF, 0xFF, 0xFF, 0xFB]] := by decide
theorem test_fconv_keeps_bad_frame :
    resultsOf (step (issuing [0x03, 0x07, 0, 0, 0, 0, 0, 0, 0x99])) = some [[0x00, 0, 0, 0, 0, 0, 0, 0x99]] := by decide
theorem test_fconv_six_bytes :
    resultsOf (exec (.fconv [0xFF, 0x0A, 0x88, 0x90, 0x00, 0x40]) State.reset) = some [[0x01, 0x02, 0x06, 0x07]] := by
  decide
theorem test_dnew_discards_old_draft :
    draftOf (exec (.dnew 0x0B) (drafted 0x0A 0x88 0x90 0x3F 0x20)) = some (true, [0x0B, 0, 0, 0, 0]) := by decide
theorem test_dor1_clears_no_bit :
    draftOf (exec (.dor1 0x08) (drafted 0x0A 0x88 0 0 0)) = some (true, [0x0A, 0x88, 0, 0, 0]) := by decide
theorem test_dor1_no_draft : resultsOf (exec (.dor1 0x88) State.reset) = some [[0x03]] := by decide
theorem test_dor2_up_and_down :
    draftOf (exec (.dor2 0x08) (drafted 0x0A 0 0x10 0 0)) = some (true, [0x0A, 0, 0x18, 0, 0]) := by decide
theorem test_dset1_overwrites :
    draftOf (exec (.dset1 0x3F) (drafted 0x0A 0 0 0x20 0)) = some (true, [0x0A, 0, 0, 0x3F, 0]) := by decide
theorem test_dset2_turbo :
    draftOf (exec (.dset2 0xFF) (drafted 0x0A 0 0 0 0x20)) = some (true, [0x0A, 0, 0, 0, 0xFF]) := by decide
theorem test_dstop_keeps_address :
    draftOf (exec .dstop (drafted 0x0A 0x88 0x90 0x00 0x40)) = some (true, [0x0A, 0, 0, 0, 0]) := by decide
theorem test_drstf_cmd1 :
    draftOf (exec (.drstf 1) (drafted 0x0A 0x88 0x90 0x3F 0x20)) = some (true, [0x0A, 0, 0x90, 0x3F, 0x20]) := by decide
theorem test_drstf_illegal_before_no_draft : resultsOf (step (issuing [0x16, 0x05])) = some [[0x02]] := by decide
theorem test_dfin_frame :
    resultsOf (exec .dfin (drafted 0x0A 0x00 0x90 0x3F 0x20)) =
      some [[0x00, 0xFF, 0x0A, 0x00, 0x90, 0x3F, 0x20, 0xF9]] := by decide
theorem test_dfin_keeps_draft :
    draftOf (exec .dfin (drafted 0x0A 0x88 0x90 0 0x40)) = some (true, [0x0A, 0x88, 0x90, 0, 0x40]) := by decide

/-! ### RCU -/

theorem test_rcls_replaces_query :
    responseOf (exec (.rcls [0xFF, 0x0A, 0x00, 0x62]) (holding .query queryV8)) =
      some (.general, [0xFF, 0x0A, 0x00, 0x62]) := by decide
theorem test_rcls_five_bytes_keeps_response :
    responseOf (step { holding .general [0xFF, 0x0A, 0x00, 0x62] with
      inputs := [.request [0x20, 0x05, 0xFF, 0x0A, 0x00, 0x62, 0x00]] }) = some (.general, [0xFF, 0x0A, 0x00, 0x62]) := by
  decide
theorem test_rval_query_V8 : resultsOf (exec (.rval 0x46) (holding .query queryV8)) = some [[0x00, 0x01]] := by decide
theorem test_rval_general_wrong_occ :
    resultsOf (exec (.rval 0x63) (holding .general [0xFF, 0x0A, 0x00, 0x62])) = some [[0x00, 0x00]] := by decide
theorem test_rkind_query : resultsOf (exec .rkind (holding .query queryV8)) = some [[0x00, 0x03]] := by decide
theorem test_rbytes_general :
    resultsOf (exec .rbytes (holding .general [0xFF, 0x0A, 0x00, 0x62])) =
      some [[0x00, 0x04, 0xFF, 0x0A, 0x00, 0x62]] := by decide
theorem test_rbytes_none : resultsOf (exec .rbytes State.reset) = some [[0x00, 0x00]] := by decide

/-! ### Host layer -/

/-- V5 and 2.8: 0.603 gives 0x26, the tie 0.5 gives 0x20, -0.2 and 1.7 are clamped. -/
theorem test_speed_values :
    [603 / 1000, 1 / 2, -1 / 5, 17 / 10, 1 / 126].map (fun q => speedToByte (.range (.rational q))) =
      [some 0x26, some 0x20, some 0x00, some 0x3F, some 0x01] := by decide +kernel

/-- Codes for the parameters the spec prints no value of: any will do. -/
def someCodes : HostParams where
  bits := FlagBits.pelcoD
  zoomIn := 0x20
  zoomOut := 0x40
  autoScan := 0x90
  manualScan := 0x10
  table := ExtTable.pelcoD true
  zoomSpeedCode := fun _ => 0
  focusSpeedCode := fun _ => 0
  autoCode := fun _ => 0
  onOffCode := fun _ => 0
  shutterPair := fun _ => (0, 0)
  delta16 := BitVec.ofInt 16

/-- R86: the builder chain of the source expands to DNEW 0x0A; DOR1 0x88; DOR2 0x80; DOR2 0x10; DSET2 0x20; DFIN. -/
theorem test_builder_chain :
    builderChain (someCodes.pelcoD true) 0x0A [.cameraOn, .focusFar, .down, .tilt (.range (.rational (1 / 2)))] =
      some [.dnew 0x0A, .dor1 0x88, .dor2 0x80, .dor2 0x10, .dset2 0x20, .dfin] := by decide +kernel

/-- 2.8, V7: go-to-preset 0x21 to address 1 is FNEW 01 00 07 00 21. -/
theorem test_go_to_preset :
    (ExtCommand.goToPreset 0x21).expand (someCodes.pelcoD true) 0x01 = .ok (.fnew 0x01 0x00 0x07 0x00 0x21) := by rfl

/-! ### Witnesses: the hypotheses of each statement can be met together -/

theorem witness_nMaxAllowed : Config.nMaxAllowed 19 ∧ Config.nMaxAllowed 255 := by
  unfold Config.nMaxAllowed; omega

theorem witness_DecodeOfEncodeIsTheInstruction :
    Config.nMaxAllowed 19 ∧ (Instr.csum (List.replicate 19 1)).wf 19 = true ∧ (Instr.drstf 4).wf 19 = true :=
  ⟨witness_nMaxAllowed.1, by decide, by decide⟩

theorem witness_EncodeOfDecodeIsTheRequest : decodeWith 255 [0x20, 0x01, 0xFF] = .ok (.rcls [0xFF]) := by decide

theorem witness_IllegalRequestsAreAnsweredIllegalOp :
    Config.nMaxAllowed 255 ∧ (issuing [0x16, 0x00]).inputs = .request [0x16, 0x00] :: [] ∧
      illegalRequest 255 [0x16, 0x00] :=
  ⟨witness_nMaxAllowed.2, rfl, .inr (.inr (.inr ⟨rfl, 0x00, rfl, by decide⟩))⟩

theorem witness_StepRunsTheDecodedInstruction :
    (issuing [0x10, 0x0A]).inputs = .request [0x10, 0x0A] :: [] ∧ decodeWith 255 [0x10, 0x0A] = .ok (.dnew 0x0A) :=
  ⟨rfl, by decide⟩

theorem witness_BlockWaitsForARequest : State.reset.inputs = [] := rfl

theorem witness_ResetEventEntersTheResetState :
    ({ drafted 1 2 3 4 5 with inputs := [.reset] } : State).inputs = .reset :: [] ∧
      ({ drafted 1 2 3 4 5 with inputs := [.resetDuring [0x17]] } : State).inputs = .resetDuring [0x17] :: [] :=
  ⟨rfl, rfl⟩

theorem witness_ConsequencesOfTheResetState :
    needsDraft (.drstf 1) = true ∧ needsNoSetup (.rcls [1, 2, 3, 4]) = true ∧ [1, 2, 3, 4].length ∈ responseLengths ∧
      needsNoSetup (.dnew 7) = true := by decide

theorem witness_EveryRequestGetsOneResultInOrder :
    ({ State.reset with inputs := [.request [0x17], .request [], .reset] } : State).inputs =
      [[0x17], []].map .request ++ [.reset] := rfl

theorem witness_FconvReturnsSevenBytesUnchanged :
    (List.replicate 7 (0 : Byte)).length = 7 ∧ (List.replicate 255 (0 : Byte)).length ≠ 7 ∧
      (List.replicate 255 (0 : Byte)).length ≤ 255 ∧ ([] : List Byte).length ≠ 7 := by
  simp only [List.length_replicate]; decide

/-- Both clauses of the statements about the draft operations: a state with a draft, a state without. -/
theorem witness_draft_and_no_draft : (drafted 0x0A 0x88 0x90 0x3F 0x20).dcre = true ∧ State.reset.dcre = false :=
  ⟨rfl, rfl⟩

/-- Every clause of the statement about DRSTF, at the edges of the selector's range. -/
theorem witness_DrstfClearsTheSelectedField :
    (1 : Byte) ∈ ([1, 2, 3, 4] : List Byte) ∧ (4 : Byte) ∈ ([1, 2, 3, 4] : List Byte) ∧
      (0 : Byte) ∉ ([1, 2, 3, 4] : List Byte) ∧ (5 : Byte) ∉ ([1, 2, 3, 4] : List Byte) := by decide

theorem witness_FramesAreWellFormed :
    wellFormedFrame [0xFF, 0x0A, 0x88, 0x90, 0x00, 0x40, 0x62] = true ∧ (drafted 1 2 3 4 5).dcre = true := by decide

theorem witness_DraftHistoryFinalizesToTheFoldedFrame :
    (∀ i ∈ [Instr.dor1 0x88, .drstf 1, .dstop, .dset2 0x20], isDraftEdit i = true) ∧
      ({ State.reset with inputs := issue (.dnew 0x0A :: ([Instr.dor1 0x88, .drstf 1, .dstop, .dset2 0x20] ++ [.dfin])) }
        : State).inputs = issue (.dnew 0x0A :: ([Instr.dor1 0x88, .drstf 1, .dstop, .dset2 0x20] ++ [.dfin])) ++ [] :=
  ⟨by decide, rfl⟩

/-- A bit leaves DC1 under DSTOP and enters it under DOR1; the same of DC2. -/
theorem witness_BitmaskBitsLeaveOnlyByWholeFieldClear :
    (∃ t, exec .dstop (drafted 1 0x80 0x80 0 0) = .next t ∧ (drafted 1 0x80 0x80 0 0).draft.dc1.getLsbD 7 = true ∧
      t.draft.dc1.getLsbD 7 = false ∧ (drafted 1 0x80 0x80 0 0).draft.dc2.getLsbD 7 = true ∧
      t.draft.dc2.getLsbD 7 = false) ∧
    (∃ t, exec (.dor1 0x80) (drafted 1 0 0 0 0) = .next t ∧ (drafted 1 0 0 0 0).draft.dc1.getLsbD 7 = false ∧
      t.draft.dc1.getLsbD 7 = true) ∧
    ∃ t, exec (.dor2 0x80) (drafted 1 0 0 0 0) = .next t ∧ (drafted 1 0 0 0 0).draft.dc2.getLsbD 7 = false ∧
      t.draft.dc2.getLsbD 7 = true :=
  ⟨⟨_, rfl, by decide, by decide, by decide, by decide⟩, ⟨_, rfl, by decide, by decide⟩, _, rfl, by decide, by decide⟩

theorem witness_OtherOperationsNeitherReadNorWriteTheDraft :
    isDraftOperation (.fnew 1 2 3 4 5) = false ∧ isDraftOperation (.rcls []) = false := by decide

/-- DNEW changes every draft register and DCRE; RCLS changes the kind. -/
theorem witness_RegistersChangeOnlyUnderTheirWriters :
    (∃ t, exec (.dnew 9) { drafted 1 2 3 4 5 with dcre := false } = .next t ∧ t.dcre ≠ false ∧ t.draft.da ≠ 1 ∧
      t.draft.dc1 ≠ 2 ∧ t.draft.dc2 ≠ 3 ∧ t.draft.dd1 ≠ 4 ∧ t.draft.dd2 ≠ 5) ∧
    ∃ t, exec (.rcls [1, 2, 3, 4]) State.reset = .next t ∧ t.rk ≠ State.reset.rk :=
  ⟨⟨_, rfl, by decide, by decide, by decide, by decide, by decide, by decide⟩, _, rfl, by decide⟩

theorem witness_DcreRisesByDnewAndFallsByReset :
    (∃ t, stepWith 255 { drafted 1 2 3 4 5 with inputs := [.reset] } = .next t ∧ t.dcre = false) ∧
      ∃ t, stepWith 255 (issuing [0x10, 0x0A]) = .next t ∧ (issuing [0x10, 0x0A]).dcre = false ∧ t.dcre = true :=
  ⟨⟨_, rfl, rfl⟩, _, rfl, rfl, rfl⟩

theorem witness_groups_of_operations :
    isIdempotent (.drstf 2) = true ∧ isReadOnly (.rval 1) = true ∧ isReadOnly .dfin = true := by decide

/-- Every kind's clause of the statement about RCLS, and the lengths beside each. -/
theorem witness_RclsClassifiesByLength :
    ([] : List Byte).length = 0 ∧ (List.replicate 4 (0 : Byte)).length = 4 ∧ (List.replicate 7 (0 : Byte)).length = 7 ∧
      queryV8.length = 18 ∧ (List.replicate 17 (0 : Byte)).length ∉ ([0, 4, 7, 18] : List Nat) ∧
      (List.replicate 255 (0 : Byte)).length ∉ ([0, 4, 7, 18] : List Nat) := by
  simp only [List.length_replicate]; decide

/-- A state for each kind's clause of the statements about RKIND, RBYTES and RVAL. -/
theorem witness_each_kind :
    State.reset.rk = .none ∧ (holding .general [1, 2, 3, 4]).rk = .general ∧
      (holding .extended [1, 2, 3, 4, 5, 6, 7]).rk = .extended ∧ (holding .query queryV8).rk = .query :=
  ⟨rfl, rfl, rfl, rfl⟩

theorem witness_FormattedFramesValidateWhenLoopedBack :
    (drafted 1 2 3 4 5).dcre = true ∧
      (drafted 1 2 3 4 5).draft = { da := 1, dc1 := 2, dc2 := 3, dd1 := 4, dd2 := 5 } := ⟨rfl, rfl⟩

theorem witness_LoadedResponseIsReturnedUntilReplaced :
    queryV8.length ∈ responseLengths ∧ (∀ q ∈ ([[0x15], [], [0x02, 1]] : List (List Byte)), q.head? ≠ some 0x20) ∧
      ({ State.reset with inputs := .request (encode (.rcls queryV8)) ::
        (([[0x15], [], [0x02, 1]] : List (List Byte)).map .request ++ [.request [0x23]]) } : State).inputs =
        .request (encode (.rcls queryV8)) ::
          (([[0x15], [], [0x02, 1]] : List (List Byte)).map .request ++ .request [0x23] :: []) :=
  ⟨by decide, by decide, rfl⟩

theorem witness_FailureChangesNothing :
    ∃ t, (issuing [0x17]).inputs = .request [0x17] :: [] ∧ stepWith 255 (issuing [0x17]) = .next t ∧
      t.results = (issuing [0x17]).results ++ [[0x03]] ∧ ([0x03] : List Byte).head? ≠ some 0x00 :=
  ⟨_, rfl, rfl, rfl, by decide⟩

theorem witness_InvalidValueOnlyFromWrongLengths :
    ∃ t, exec (.rcls [1]) State.reset = .next t ∧ t.results = State.reset.results ++ [[0x01, 0x01, 0x01]] :=
  ⟨_, rfl, by decide⟩

theorem witness_NoDraftExactlyBeforeTheFirstDnew :
    ∃ t, exec .dfin State.reset = .next t ∧ t.results = State.reset.results ++ [[0x03]] := ⟨_, rfl, rfl⟩

theorem witness_ResultFormsAreKeptByEveryStep :
    ∃ t, ResultsHaveForm (issuing [0x17]) ∧ stepWith 255 (issuing [0x17]) = .next t := ⟨_, fun _ h => (nomatch h), rfl⟩

/-- Two states that differ in a draft register while DCRE = 0, in padding and in the draws. -/
theorem witness_StepsPreserveObservableAgreement :
    sameObservable { drafted 1 2 3 4 5 with dcre := false } { State.reset with rb := bufferOf [], freeCount := 7 } :=
  ⟨rfl, fun h => (nomatch h), rfl, by decide, rfl, rfl⟩

theorem witness_SpeedIsClampedAndRounded : (0 : Rat) ≤ 1 / 126 ∧ (1 / 126 : Rat) ≤ 1 := by norm_num

/-- Both tables the spec's row "0x00 or 0x01" allows are as the source relates them. -/
theorem pelcoD_sourced (deltaIsOne : Bool) : (someCodes.pelcoD deltaIsOne).sourced := by
  refine ⟨(by decide : FlagBits.pelcoD.wf = true), by cases deltaIsOne <;> decide, fun row => ?_⟩
  cases deltaIsOne <;> simp [HostParams.pelcoD, ExtTable.pelcoD, pelcoDAdjust]

theorem witness_PresetZeroIsRejected : (1 : Byte) ≠ 0 ∧ (0xFF : Byte) ≠ 0 := by decide

theorem witness_NonAsciiCharacterIsRejected : 127 < (Char.ofNat 128).toNat ∧ (Char.ofNat 127).toNat ≤ 127 := by decide

theorem witness_SixteenBitValuesAreBigEndian :
    (someCodes.pelcoD false).sourced ∧ ExtCommand.adjustIrisPeak ∈
      ([.adjustPhaseDelay, .adjustGain, .adjustWhiteBalanceRB, .adjustWhiteBalanceMG, .adjustIrisLevel,
        .adjustIrisPeak] : List (Adjustment → ExtCommand)) :=
  ⟨pelcoD_sourced false, by simp⟩

theorem witness_BuilderMethodsExpandToDraftOperations :
    someCodes.bits.wf = true ∧ speedToByte .turbo = some 0xFF ∧ (someCodes.pelcoD true).sourced ∧
      Method.expand someCodes (.pan .turbo) = some (.dset1 0xFF) := ⟨by decide, rfl, pelcoD_sourced true, rfl⟩

/-- One and two bits are accepted, none, three and eight are not. -/
theorem test_oneOrTwoBits :
    [0x01, 0x90, 0x00, 0x07, 0xFF].map oneOrTwoBits = [true, true, false, false, false] := by decide

theorem witness_CameraOffDoesNotUndoCameraOn :
    someCodes.bits.wf = true ∧ Method.expand someCodes .cameraOn = some (.dor1 0x88) ∧
      Method.expand someCodes .cameraOff = some (.dor1 0x08) ∧
      ({ State.reset with inputs := issue [.dnew 1, .dor1 0x88, .dor1 0x08, .dfin] } : State).inputs =
        issue [.dnew 1, .dor1 0x88, .dor1 0x08, .dfin] ++ [] :=
  ⟨by decide, rfl, rfl, rfl⟩

/-- A transport that accepts every write and flush, and reads at most four bytes at a time. -/
def goodTransport : Transport Unit Unit where
  read := fun n _ => .ok (List.replicate (min n 4) 0xFF, ())
  write := fun b _ => .ok (b.length, ())
  flush := .ok
  shortWrite := fun _ _ _ => .error ()
  sendFlushes := true

/-- One whose every access fails. -/
def badTransport : Transport Unit Unit where
  read := fun _ _ => .error ()
  write := fun _ _ => .error ()
  flush := fun _ => .error ()
  shortWrite := fun _ _ _ => .error ()
  sendFlushes := false

theorem witness_SendWritesTheFrameAndPropagatesIoErrors :
    goodTransport.write [1] () = .ok ([1].length, ()) ∧ goodTransport.sendFlushes = true ∧
      goodTransport.flush () = .ok () ∧ badTransport.write [1] () = .error () ∧ badTransport.sendFlushes = false ∧
      badTransport.flush () = .error () := ⟨rfl, rfl, rfl, rfl, rfl, rfl⟩

theorem witness_HostKeepsTheOriginatingChecksum :
    ([0xFF, 0x0A, 0x88, 0x90, 0x00, 0x40, 0x62] : List Byte)[6]? = some 0x62 ∧
      Exchanges.sendCommand goodTransport [0xFF, 0x0A, 0x88, 0x90, 0x00, 0x40, 0x62] { channel := (), kept := [7] } =
        .ok { channel := (), kept := [7, 0x62] } := ⟨rfl, rfl⟩

/-- A seven-byte response that takes two reads; with one read it is incomplete. -/
theorem witness_ReceiveHandsOverCompleteResponses :
    goodTransport.read 7 () = .ok (List.replicate 4 0xFF, ()) ∧ (List.replicate 4 (0xFF : Byte)).length < 7 ∧
      goodTransport.read 3 () = .ok (List.replicate 3 0xFF, ()) ∧
      goodTransport.receive 7 2 () = .ok (.complete (.rcls (List.replicate 7 0xFF)), ()) ∧
      goodTransport.receive 7 1 () = .ok (.incomplete (List.replicate 4 0xFF), ()) ∧
      badTransport.read 7 () = .error () := ⟨rfl, by decide, rfl, rfl, rfl, rfl⟩

end Sys2Proof.Tests
end

/-! The family 00_scope: every operation ends with exactly one result, the machine never stops, and no result depends on
padding, on a draft that was never created, or on the free bytes (spec/00_scope.md R13, spec/10_state.md R28, R34). -/

section
namespace Sys2Proof.Machine

/-! ### Every operation ends with one result (R13) -/

/-- The outcome is a next state with one result more than `s` and the inputs of `s`. -/
def endsWithOneResult (s : State) (o : Host.Outcome State Fault Refusal) : Prop :=
  ∃ t r, o = .next t ∧ t.results = s.results ++ [r] ∧ t.inputs = s.inputs

theorem endsWithOneResult_complete {s u : State} (payload : List Byte) (hr : u.results = s.results)
    (hi : u.inputs = s.inputs) : endsWithOneResult s (complete payload u) :=
  ⟨respond (.ok payload) u, _, rfl, by rw [respond_results, hr], by rw [respond_inputs, hi]⟩

theorem endsWithOneResult_raise (f : Failure) (s : State) : endsWithOneResult s (raise f s) :=
  ⟨respond (.raised f) s, _, rfl, respond_results _ s, respond_inputs _ s⟩

/-- An operation refused for want of a draft ends with that one result. -/
theorem endsWithOneResult_requireDraft {s : State} {effect : Host.Outcome State Fault Refusal}
    (h : endsWithOneResult s effect) : endsWithOneResult s (requireDraft s effect) := by
  cases hd : s.dcre with
  | true => rwa [requireDraft_of_draft hd]
  | false => rw [requireDraft_of_noDraft hd]; exact endsWithOneResult_raise _ s

/-- A change of the draft's registers, refused while there is no draft. -/
theorem endsWithOneResult_editDraft (d : Draft) (s : State) :
    endsWithOneResult s (requireDraft s (complete [] (writeDraft d s))) :=
  endsWithOneResult_requireDraft (endsWithOneResult_complete [] rfl rfl)

theorem endsWithOneResult_exec (i : Instr) (s : State) : endsWithOneResult s (exec i s) := by
  cases i with
  | csum b => exact endsWithOneResult_complete _ rfl rfl
  | fnew a c1 c2 d1 d2 => exact endsWithOneResult_complete _ rfl rfl
  | fconv b =>
    show endsWithOneResult s (execFconv b s)
    unfold execFconv
    split
    · exact endsWithOneResult_complete _ rfl rfl
    · exact endsWithOneResult_raise _ s
  | dnew a => exact endsWithOneResult_complete _ (createDraft_results _ s) (createDraft_inputs _ s)
  | dor1 m => exact endsWithOneResult_editDraft _ s
  | dor2 m => exact endsWithOneResult_editDraft _ s
  | dset1 v => exact endsWithOneResult_editDraft _ s
  | dset2 v => exact endsWithOneResult_editDraft _ s
  | dstop => exact endsWithOneResult_editDraft _ s
  | drstf f =>
    show endsWithOneResult s (execDrstf f s)
    unfold execDrstf
    split
    · exact endsWithOneResult_raise _ s
    · exact endsWithOneResult_editDraft _ s
  | dfin => exact endsWithOneResult_requireDraft (endsWithOneResult_complete _ rfl rfl)
  | rcls b =>
    show endsWithOneResult s (execRcls b s)
    unfold execRcls
    split
    · exact endsWithOneResult_complete _ (loadResponse_results _ b s) (loadResponse_inputs _ b s)
    · exact endsWithOneResult_raise _ s
  | rval occ => exact endsWithOneResult_complete _ rfl rfl
  | rkind => exact endsWithOneResult_complete _ rfl rfl
  | rbytes => exact endsWithOneResult_complete _ rfl rfl

/-- A request that spells no operation is answered like one that does: with one result (R81). -/
theorem endsWithOneResult_performRequest (nMax : Nat) (b : List Byte) (s : State) :
    endsWithOneResult s (performRequest nMax b s) := by
  unfold performRequest
  split
  · exact endsWithOneResult_exec _ s
  · exact endsWithOneResult_raise _ s

/-! ### One step, by its next input -/

theorem stepWith_of_noInput {nMax : Nat} {s : State} (h : s.inputs = []) : stepWith nMax s = .next s := by
  simp only [stepWith, h, waitForRequest]

theorem stepWith_of_request {nMax : Nat} {s : State} {b : List Byte} {rest : List Input}
    (h : s.inputs = .request b :: rest) : stepWith nMax s = performRequest nMax b (takeInput rest s) := by
  simp only [stepWith, h]

theorem stepWith_of_reset {nMax : Nat} {s : State} {rest : List Input} (h : s.inputs = .reset :: rest) :
    stepWith nMax s = applyReset (takeInput rest s) := by
  simp only [stepWith, h]

theorem stepWith_of_resetDuring {nMax : Nat} {s : State} {b : List Byte} {rest : List Input}
    (h : s.inputs = .resetDuring b :: rest) : stepWith nMax s = applyReset (takeInput rest s) := by
  simp only [stepWith, h]

/-! ### What no operation can tell apart stays so (R13, R28, R34) -/

/-- The kind of an accepted length has that length (R26, R130). -/
theorem eq_lenOf_of_kindOfLength {n : Nat} {k : Kind} (h : kindOfLength n = some k) : n = lenOf k := by
  obtain ⟨rfl, rfl⟩ | ⟨rfl, rfl⟩ | ⟨rfl, rfl⟩ | ⟨rfl, rfl⟩ := kindOfLength_eq_some h <;> rfl

/-- Both outcomes are next states, and no operation can tell these apart. -/
def sameOutcome (o o' : Host.Outcome State Fault Refusal) : Prop :=
  ∃ s' t', o = .next s' ∧ o' = .next t' ∧ sameObservable s' t'

section
variable {s t : State} (h : sameObservable s t)
include h

theorem sameObservable_respond (r : Result) : sameObservable (respond r s) (respond r t) := by
  obtain ⟨hc, hd, hk, hb, hi, hr⟩ := h
  exact ⟨hc, hd, hk, hb, hi, congrArg (· ++ [r.bytes]) hr⟩

theorem sameObservable_takeInput (rest : List Input) : sameObservable (takeInput rest s) (takeInput rest t) := by
  obtain ⟨hc, hd, hk, hb, -, hr⟩ := h
  exact ⟨hc, hd, hk, hb, rfl, hr⟩

theorem sameObservable_writeDraft (d : Draft) : sameObservable (writeDraft d s) (writeDraft d t) := by
  obtain ⟨hc, -, hk, hb, hi, hr⟩ := h
  exact ⟨hc, fun _ => rfl, hk, hb, hi, hr⟩

theorem sameObservable_createDraft (d : Draft) : sameObservable (createDraft d s) (createDraft d t) := by
  obtain ⟨-, -, hk, hb, hi, hr⟩ := h
  exact ⟨rfl, fun _ => rfl, hk, hb, hi, hr⟩

/-- The padding a load leaves may differ; the bytes below the kind's length are the bytes loaded. -/
theorem sameObservable_loadResponse {k : Kind} {b : List Byte} (hl : b.length = lenOf k) :
    sameObservable (loadResponse k b s) (loadResponse k b t) := by
  obtain ⟨hc, hd, -, -, hi, hr⟩ := h
  have hb : significant (loadResponse k b s).toBlock = significant (loadResponse k b t).toBlock :=
    (significant_loadResponse k b s hl).trans (significant_loadResponse k b t hl).symm
  exact ⟨hc, hd, rfl, hb, hi, hr⟩

theorem sameOutcome_complete {p q : List Byte} (hpq : p = q) : sameOutcome (complete p s) (complete q t) := by
  subst hpq
  exact ⟨_, _, rfl, rfl, sameObservable_respond h _⟩

theorem sameOutcome_raise (f : Failure) : sameOutcome (raise f s) (raise f t) :=
  ⟨_, _, rfl, rfl, sameObservable_respond h _⟩

theorem sameOutcome_applyReset : sameOutcome (applyReset s) (applyReset t) := by
  obtain ⟨-, -, -, -, hi, hr⟩ := h
  exact ⟨_, _, rfl, rfl, rfl, fun _ => rfl, rfl, rfl, hi, hr⟩

/-- The draft is looked at only where there is one: the effects need to agree only under equal drafts. -/
theorem sameOutcome_requireDraft {e e' : Host.Outcome State Fault Refusal}
    (he : s.draft = t.draft → sameOutcome e e') : sameOutcome (requireDraft s e) (requireDraft t e') := by
  have ⟨hc, hd, _⟩ := h
  cases hs : s.dcre with
  | true =>
    rw [requireDraft_of_draft hs, requireDraft_of_draft (hc ▸ hs)]
    exact he (hd hs)
  | false =>
    rw [requireDraft_of_noDraft hs, requireDraft_of_noDraft (hc ▸ hs)]
    exact sameOutcome_raise h _

/-- An update that computes the new draft from the old one. -/
theorem sameOutcome_editDraft (g : Draft → Draft) :
    sameOutcome (requireDraft s (complete [] (writeDraft (g s.draft) s)))
      (requireDraft t (complete [] (writeDraft (g t.draft) t))) :=
  sameOutcome_requireDraft h fun hd => hd ▸ sameOutcome_complete (sameObservable_writeDraft h _) rfl

theorem sameOutcome_exec (i : Instr) : sameOutcome (exec i s) (exec i t) := by
  have ⟨_, _, hk, hb, _, _⟩ := h
  cases i with
  | csum b => exact sameOutcome_complete h rfl
  | fnew a c1 c2 d1 d2 => exact sameOutcome_complete h rfl
  | fconv b =>
    show sameOutcome (execFconv b s) (execFconv b t)
    unfold execFconv
    split
    · exact sameOutcome_complete h rfl
    · exact sameOutcome_raise h _
  | dnew a => exact sameOutcome_complete (sameObservable_createDraft h _) rfl
  | dor1 m => exact sameOutcome_editDraft h (Draft.or1 m)
  | dor2 m => exact sameOutcome_editDraft h (Draft.or2 m)
  | dset1 v => exact sameOutcome_editDraft h (Draft.set1 v)
  | dset2 v => exact sameOutcome_editDraft h (Draft.set2 v)
  | dstop => exact sameOutcome_editDraft h Draft.stop
  | drstf f =>
    show sameOutcome (execDrstf f s) (execDrstf f t)
    unfold execDrstf
    split
    · exact sameOutcome_raise h _
    · exact sameOutcome_editDraft h (Draft.resetField _)
  | dfin => exact sameOutcome_requireDraft h fun hd => sameOutcome_complete h (congrArg Draft.frame hd)
  | rcls b =>
    show sameOutcome (execRcls b s) (execRcls b t)
    unfold execRcls
    split
    next k hbk => exact sameOutcome_complete (sameObservable_loadResponse h (eq_lenOf_of_kindOfLength hbk)) rfl
    next => exact sameOutcome_raise h _
  | rval occ => exact sameOutcome_complete h (by rw [hk, hb])
  | rkind => exact sameOutcome_complete h (by rw [hk])
  | rbytes => exact sameOutcome_complete h (by rw [hk, hb])

theorem sameOutcome_performRequest (nMax : Nat) (b : List Byte) :
    sameOutcome (performRequest nMax b s) (performRequest nMax b t) := by
  unfold performRequest
  split
  · exact sameOutcome_exec h _
  · exact sameOutcome_raise h _

theorem sameOutcome_stepWith (nMax : Nat) : sameOutcome (stepWith nMax s) (stepWith nMax t) := by
  have ⟨_, _, _, _, hst, _⟩ := h
  match hs : s.inputs with
  | [] =>
    rw [stepWith_of_noInput hs, stepWith_of_noInput (hst ▸ hs)]
    exact ⟨s, t, rfl, rfl, h⟩
  | .request b :: rest =>
    rw [stepWith_of_request hs, stepWith_of_request (hst ▸ hs)]
    exact sameOutcome_performRequest (sameObservable_takeInput h rest) nMax b
  | .reset :: rest =>
    rw [stepWith_of_reset hs, stepWith_of_reset (hst ▸ hs)]
    exact sameOutcome_applyReset (sameObservable_takeInput h rest)
  | .resetDuring b :: rest =>
    rw [stepWith_of_resetDuring hs, stepWith_of_resetDuring (hst ▸ hs)]
    exact sameOutcome_applyReset (sameObservable_takeInput h rest)

end

/-! ### The obligations of the family -/

/-- Settles O47: each operation reads the draft only where DCRE = 1, and of the buffer only the significant bytes, so it
carries the agreement over. -/
theorem stepsPreserveObservableAgreement : Obligations.StepsPreserveObservableAgreement :=
  fun nMax _ _ h => sameOutcome_stepWith h nMax

/-- Settles O10, by the cases of `exec`: each is a result returned or a failure raised. -/
theorem everyOperationEndsWithOneResult : Obligations.EveryOperationEndsWithOneResult :=
  endsWithOneResult_exec

/-- Settles O11: a request is answered as O10 says, a reset always applies, and with no input the block waits. -/
theorem everyStepAnswersANextState : Obligations.EveryStepAnswersANextState := by
  intro nMax s
  match hs : s.inputs with
  | [] => exact ⟨s, stepWith_of_noInput hs⟩
  | .request b :: rest =>
    obtain ⟨t, -, ht, -⟩ := endsWithOneResult_performRequest nMax b (takeInput rest s)
    exact ⟨t, (stepWith_of_request hs).trans ht⟩
  | .reset :: rest => exact ⟨_, stepWith_of_reset hs⟩
  | .resetDuring b :: rest => exact ⟨_, stepWith_of_resetDuring hs⟩

end Sys2Proof.Machine
end

/-! The family 10_state: what a step does with the next input, which registers an operation may write, how DCRE rises
and falls, and what follows from the values at reset (spec/10_state.md R20 to R36). -/

section
namespace Sys2Proof.Machine

/-! ### Performing a request (R31, R81) -/

theorem performRequest_of_ok {nMax : Nat} {b : List Byte} {i : Instr} (h : decodeWith nMax b = .ok i) (s : State) :
    performRequest nMax b s = exec i s := by
  simp only [performRequest, h]

theorem performRequest_of_error {nMax : Nat} {b : List Byte} {e : DecodeError} (h : decodeWith nMax b = .error e)
    (s : State) : performRequest nMax b s = raise .illegalOp s := by
  simp only [performRequest, h]

/-! ### An accepted request is the one the encoder writes (R77, R78) -/

theorem operandBytes_of_decodeOperands {nMax : Nat} {o : Opcode} {rest : List Byte} {i : Instr}
    (h : decodeOperands nMax o rest = .ok i) : i.opcode = o ∧ i.operandBytes = rest := by
  cases o with
  | csum | fconv | rcls =>
    obtain ⟨b, hb, rfl⟩ := map_eq_ok_iff.mp h
    exact ⟨rfl, (decodeSequence_eq_ok_iff.mp hb).2.symm⟩
  | fnew =>
    simp only [decodeOperands] at h
    split at h <;> cases h
    exact ⟨rfl, rfl⟩
  | dnew | dor1 | dor2 | dset1 | dset2 | rval =>
    obtain ⟨v, hv, rfl⟩ := map_eq_ok_iff.mp h
    exact ⟨rfl, (decodeByte_eq_ok_iff.mp hv).symm⟩
  | dstop | dfin | rkind | rbytes =>
    obtain ⟨rfl, rfl⟩ := decodeNothing_eq_ok_iff.mp h
    exact ⟨rfl, rfl⟩
  | drstf =>
    simp only [decodeOperands] at h
    split at h
    next f hf =>
      split at h <;> cases h
      exact ⟨rfl, (decodeByte_eq_ok_iff.mp hf).symm⟩
    next => cases h

theorem encode_of_decodeWith {nMax : Nat} {b : List Byte} {i : Instr} (h : decodeWith nMax b = .ok i) :
    encode i = b := by
  cases b with
  | nil => cases h
  | cons op rest =>
    simp only [decodeWith] at h
    split at h
    next o ho =>
      obtain ⟨hop, hrest⟩ := operandBytes_of_decodeOperands h
      rw [encode_eq_cons, hop, hrest, Opcode.code_of_ofByte ho]
    next => cases h

/-! ### What an operation may write (R20) -/

/-- `Writes s i u`: from `s` the operation `i` may leave the registers as `u` has them. Where it fails, and where it
writes nothing at all, that is `s` itself. The operation's result is not in it yet. -/
inductive Writes (s : State) : Instr → State → Prop where
  | nothing (i : Instr) : Writes s i s
  | create (a : Byte) : Writes s (.dnew a) (createDraft (Draft.new a) s)
  | or1 (m : Byte) (hd : s.dcre = true) : Writes s (.dor1 m) (writeDraft (s.draft.or1 m) s)
  | or2 (m : Byte) (hd : s.dcre = true) : Writes s (.dor2 m) (writeDraft (s.draft.or2 m) s)
  | set1 (v : Byte) (hd : s.dcre = true) : Writes s (.dset1 v) (writeDraft (s.draft.set1 v) s)
  | set2 (v : Byte) (hd : s.dcre = true) : Writes s (.dset2 v) (writeDraft (s.draft.set2 v) s)
  | stop (hd : s.dcre = true) : Writes s .dstop (writeDraft s.draft.stop s)
  | clearCmd1 (hd : s.dcre = true) : Writes s (.drstf 1) (writeDraft (s.draft.resetField .cmd1) s)
  | clearCmd2 (hd : s.dcre = true) : Writes s (.drstf 2) (writeDraft (s.draft.resetField .cmd2) s)
  | clearData1 (hd : s.dcre = true) : Writes s (.drstf 3) (writeDraft (s.draft.resetField .data1) s)
  | clearData2 (hd : s.dcre = true) : Writes s (.drstf 4) (writeDraft (s.draft.resetField .data2) s)
  | load (k : Kind) (b : List Byte) (hk : kindOfLength b.length = some k) : Writes s (.rcls b) (loadResponse k b s)

theorem Writes.of_selectField {f : Byte} {field : DraftField} (h : selectField f = some field) {s : State}
    (hd : s.dcre = true) : Writes s (.drstf f) (writeDraft (s.draft.resetField field) s) := by
  obtain ⟨rfl, rfl⟩ | ⟨rfl, rfl⟩ | ⟨rfl, rfl⟩ | ⟨rfl, rfl⟩ := selectField_eq_some h
  · exact .clearCmd1 hd
  · exact .clearCmd2 hd
  · exact .clearData1 hd
  · exact .clearData2 hd

/-- The outcome is a next state: the registers as `i` may leave them, and one result. -/
def writesAndResponds (s : State) (i : Instr) (o : Host.Outcome State Fault Refusal) : Prop :=
  ∃ u r, Writes s i u ∧ o = .next (respond r u)

theorem writesAndResponds_complete {s u : State} {i : Instr} (h : Writes s i u) (payload : List Byte) :
    writesAndResponds s i (complete payload u) :=
  ⟨u, .ok payload, h, rfl⟩

theorem writesAndResponds_raise (f : Failure) (s : State) (i : Instr) : writesAndResponds s i (raise f s) :=
  ⟨s, .raised f, .nothing i, rfl⟩

theorem writesAndResponds_requireDraft {s u : State} {i : Instr} (h : s.dcre = true → Writes s i u)
    (payload : List Byte) : writesAndResponds s i (requireDraft s (complete payload u)) := by
  cases hd : s.dcre with
  | true => rw [requireDraft_of_draft hd]; exact writesAndResponds_complete (h hd) payload
  | false => rw [requireDraft_of_noDraft hd]; exact writesAndResponds_raise _ s i

theorem writesAndResponds_exec (i : Instr) (s : State) : writesAndResponds s i (exec i s) := by
  cases i with
  | csum | fnew | rval | rkind | rbytes => exact writesAndResponds_complete (.nothing _) _
  | fconv b =>
    show writesAndResponds s _ (execFconv b s)
    unfold execFconv
    split
    · exact writesAndResponds_complete (.nothing _) _
    · exact writesAndResponds_raise _ s _
  | dnew a => exact writesAndResponds_complete (.create a) _
  | dor1 m => exact writesAndResponds_requireDraft (.or1 m) _
  | dor2 m => exact writesAndResponds_requireDraft (.or2 m) _
  | dset1 v => exact writesAndResponds_requireDraft (.set1 v) _
  | dset2 v => exact writesAndResponds_requireDraft (.set2 v) _
  | dstop => exact writesAndResponds_requireDraft .stop _
  | drstf f =>
    show writesAndResponds s _ (execDrstf f s)
    unfold execDrstf
    split
    next => exact writesAndResponds_raise _ s _
    next field hf => exact writesAndResponds_requireDraft (.of_selectField hf) _
  | dfin => exact writesAndResponds_requireDraft (fun _ => .nothing _) _
  | rcls b =>
    show writesAndResponds s _ (execRcls b s)
    unfold execRcls
    split
    next k hk => exact writesAndResponds_complete (.load k b hk) _
    next => exact writesAndResponds_raise _ s _

/-- Whatever `exec` answers is some write `i` is allowed, and one result. -/
theorem exec_eq_next {i : Instr} {s t : State} (h : exec i s = .next t) :
    ∃ u r, Writes s i u ∧ t = respond r u := by
  obtain ⟨u, r, hu, ht⟩ := writesAndResponds_exec i s
  exact ⟨u, r, hu, Host.Outcome.next.inj (h.symm.trans ht)⟩

/-- No operation clears DCRE, and only DNEW sets it (R25). -/
theorem Writes.dcre {s u : State} {i : Instr} (h : Writes s i u) :
    u.dcre = s.dcre ∨ ∃ a, i = .dnew a ∧ u.dcre = true := by
  cases h with
  | create a => exact .inr ⟨a, rfl, rfl⟩
  | _ => exact .inl rfl

theorem Writes.da {s u : State} {i : Instr} (h : Writes s i u) : u.draft.da = s.draft.da ∨ ∃ a, i = .dnew a := by
  cases h with
  | create a => exact .inr ⟨a, rfl⟩
  | _ => exact .inl rfl

/-- The response register, and the count of free bytes drawn for its padding, are RCLS's alone (R20, R131). -/
theorem Writes.response {s u : State} {i : Instr} (h : Writes s i u) :
    (u.rk = s.rk ∧ u.rb = s.rb ∧ u.freeCount = s.freeCount) ∨ ∃ b, i = .rcls b := by
  cases h with
  | load k b _ => exact .inr ⟨b, rfl⟩
  | _ => exact .inl ⟨rfl, rfl, rfl⟩

/-! ### The four fields of the draft (R24, R123) -/

/-- How `i` may take a field from `x` to `y`: it stays, it is cleared whole, or `i` is the field's own `write` with an
operand `m`, which leaves `f x m`. -/
def fieldChange (i : Instr) (selector : Byte) (write : Byte → Instr) (f : Byte → Byte → Byte) (x y : Byte) : Prop :=
  y = x ∨ (y = 0 ∧ ((∃ a, i = .dnew a) ∨ i = .dstop ∨ i = .drstf selector)) ∨ ∃ m, i = write m ∧ y = f x m

section
variable {i : Instr} {selector : Byte} {write : Byte → Instr} {x y : Byte}

theorem fieldChange_writer {f : Byte → Byte → Byte} (h : fieldChange i selector write f x y) (hne : y ≠ x) :
    (∃ a, i = .dnew a) ∨ (∃ m, i = write m) ∨ i = .dstop ∨ i = .drstf selector := by
  obtain hxy | ⟨-, hnew | hclear⟩ | ⟨m, hm, -⟩ := h
  · exact absurd hxy hne
  · exact .inl hnew
  · exact .inr (.inr hclear)
  · exact .inr (.inl ⟨m, hm⟩)

/-- A bit of an ORed field falls only under a clear, since an OR keeps every bit. -/
theorem fieldChange_bit_falls {k : Nat} (h : fieldChange i selector write (· ||| ·) x y)
    (hx : x.getLsbD k = true) (hy : y.getLsbD k = false) :
    y = 0 ∧ ((∃ a, i = .dnew a) ∨ i = .dstop ∨ i = .drstf selector) := by
  obtain rfl | hclear | ⟨m, -, rfl⟩ := h
  · simp [hx] at hy
  · exact hclear
  · simp [hx] at hy

/-- A bit of an ORed field rises only from the operand. -/
theorem fieldChange_bit_rises {k : Nat} (h : fieldChange i selector write (· ||| ·) x y)
    (hx : x.getLsbD k = false) (hy : y.getLsbD k = true) : ∃ m, i = write m ∧ m.getLsbD k = true := by
  obtain rfl | ⟨rfl, -⟩ | ⟨m, hm, rfl⟩ := h
  · simp [hx] at hy
  · simp at hy
  · exact ⟨m, hm, by simpa [hx] using hy⟩

end

section
variable {s u : State} {i : Instr} (h : Writes s i u)
include h

theorem Writes.dc1 : fieldChange i 1 .dor1 (· ||| ·) s.draft.dc1 u.draft.dc1 := by
  cases h with
  | create a => exact .inr (.inl ⟨rfl, .inl ⟨a, rfl⟩⟩)
  | stop _ => exact .inr (.inl ⟨rfl, .inr (.inl rfl)⟩)
  | clearCmd1 _ => exact .inr (.inl ⟨rfl, .inr (.inr rfl)⟩)
  | or1 m _ => exact .inr (.inr ⟨m, rfl, rfl⟩)
  | _ => exact .inl rfl

theorem Writes.dc2 : fieldChange i 2 .dor2 (· ||| ·) s.draft.dc2 u.draft.dc2 := by
  cases h with
  | create a => exact .inr (.inl ⟨rfl, .inl ⟨a, rfl⟩⟩)
  | stop _ => exact .inr (.inl ⟨rfl, .inr (.inl rfl)⟩)
  | clearCmd2 _ => exact .inr (.inl ⟨rfl, .inr (.inr rfl)⟩)
  | or2 m _ => exact .inr (.inr ⟨m, rfl, rfl⟩)
  | _ => exact .inl rfl

theorem Writes.dd1 : fieldChange i 3 .dset1 (fun _ v => v) s.draft.dd1 u.draft.dd1 := by
  cases h with
  | create a => exact .inr (.inl ⟨rfl, .inl ⟨a, rfl⟩⟩)
  | stop _ => exact .inr (.inl ⟨rfl, .inr (.inl rfl)⟩)
  | clearData1 _ => exact .inr (.inl ⟨rfl, .inr (.inr rfl)⟩)
  | set1 v _ => exact .inr (.inr ⟨v, rfl, rfl⟩)
  | _ => exact .inl rfl

theorem Writes.dd2 : fieldChange i 4 .dset2 (fun _ v => v) s.draft.dd2 u.draft.dd2 := by
  cases h with
  | create a => exact .inr (.inl ⟨rfl, .inl ⟨a, rfl⟩⟩)
  | stop _ => exact .inr (.inl ⟨rfl, .inr (.inl rfl)⟩)
  | clearData2 _ => exact .inr (.inl ⟨rfl, .inr (.inr rfl)⟩)
  | set2 v _ => exact .inr (.inr ⟨v, rfl, rfl⟩)
  | _ => exact .inl rfl

/-- No operation writes the results; the one in hand is added after. -/
theorem Writes.results : u.results = s.results := by
  cases h <;> rfl

end

/-! ### Operations that do not touch the draft (R23) -/

/-- The operation leaves the draft and DCRE, and answers alike whatever these hold. -/
def ignoresDraft (op : State → Host.Outcome State Fault Refusal) : Prop :=
  ∀ (s : State) (d : Draft) (c : Bool), ∃ t, op s = .next t ∧ t.draft = s.draft ∧ t.dcre = s.dcre ∧
    op { s with draft := d, dcre := c } = .next { t with draft := d, dcre := c }

theorem ignoresDraft_complete (payload : List Byte) : ignoresDraft (complete payload) :=
  fun _ _ _ => ⟨_, rfl, rfl, rfl, rfl⟩

theorem ignoresDraft_raise (f : Failure) : ignoresDraft (raise f) :=
  fun _ _ _ => ⟨_, rfl, rfl, rfl, rfl⟩

theorem ignoresDraft_load (k : Kind) (b payload : List Byte) :
    ignoresDraft fun s => complete payload (loadResponse k b s) :=
  fun _ _ _ => ⟨_, rfl, rfl, rfl, rfl⟩

/-- An operation may compute its result from the response register. -/
theorem ignoresDraft_completeFrom (payload : Kind → List Byte → List Byte) :
    ignoresDraft fun s => complete (payload s.rk (significant s.toBlock)) s :=
  fun _ _ _ => ⟨_, rfl, rfl, rfl, rfl⟩

theorem ignoresDraft_exec {i : Instr} (h : isDraftOperation i = false) : ignoresDraft (exec i) := by
  cases i with
  | csum b => exact ignoresDraft_complete _
  | fnew a c1 c2 d1 d2 => exact ignoresDraft_complete _
  | fconv b =>
    show ignoresDraft (execFconv b)
    unfold execFconv
    split
    · exact ignoresDraft_complete _
    · exact ignoresDraft_raise _
  | rcls b =>
    show ignoresDraft (execRcls b)
    unfold execRcls
    split
    · exact ignoresDraft_load _ b _
    · exact ignoresDraft_raise _
  | rval occ => exact ignoresDraft_completeFrom fun k r => [verdictByte (checksumIsValid k r occ)]
  | rkind => exact ignoresDraft_completeFrom fun k _ => [kindCode k]
  | rbytes => exact ignoresDraft_completeFrom fun k r => lengthByte (lenOf k) :: r
  | dnew | dor1 | dor2 | dset1 | dset2 | dstop | drstf | dfin => cases h

/-! ### DCRE over one step (R25, R36) -/

/-- A request keeps DCRE, or it is `10 a` and sets it. -/
theorem dcre_of_performRequest {nMax : Nat} {b : List Byte} {s t : State} (h : performRequest nMax b s = .next t) :
    t.dcre = s.dcre ∨ ∃ a, b = [0x10, a] ∧ t.dcre = true := by
  cases hb : decodeWith nMax b with
  | ok i =>
    rw [performRequest_of_ok hb] at h
    obtain ⟨u, r, hu, rfl⟩ := exec_eq_next h
    obtain hkept | ⟨a, rfl, hset⟩ := hu.dcre
    · exact .inl hkept
    · exact .inr ⟨a, (encode_of_decodeWith hb).symm, hset⟩
  | error e =>
    rw [performRequest_of_error hb, raise_eq_next_iff] at h
    subst h
    exact .inl (respond_dcre _ s)

/-- A step keeps DCRE, or sets it at a request `10 a`, or clears it at a reset. -/
theorem dcre_of_stepWith {nMax : Nat} {s t : State} (h : stepWith nMax s = .next t) :
    t.dcre = s.dcre ∨ (t.dcre = true ∧ ∃ a rest, s.inputs = .request [0x10, a] :: rest) ∨
      (t.dcre = false ∧
        ((∃ rest, s.inputs = .reset :: rest) ∨ ∃ b rest, s.inputs = .resetDuring b :: rest)) := by
  match hs : s.inputs with
  | [] =>
    rw [stepWith_of_noInput hs] at h
    cases h
    exact .inl rfl
  | .request b :: rest =>
    rw [stepWith_of_request hs] at h
    obtain hkept | ⟨a, rfl, hset⟩ := dcre_of_performRequest h
    · exact .inl (hkept.trans (takeInput_dcre rest s))
    · exact .inr (.inl ⟨hset, a, rest, rfl⟩)
  | .reset :: rest =>
    rw [stepWith_of_reset hs] at h
    cases h
    exact .inr (.inr ⟨rfl, .inl ⟨rest, rfl⟩⟩)
  | .resetDuring b :: rest =>
    rw [stepWith_of_resetDuring hs] at h
    cases h
    exact .inr (.inr ⟨rfl, .inr ⟨b, rest, rfl⟩⟩)

/-! ### Runs from states no operation can tell apart (R34) -/

theorem sameOutcome_run {s t : State} (h : sameObservable s t) (k : Nat) : sameOutcome (run k s) (run k t) := by
  induction k generalizing s t with
  | zero => exact ⟨s, t, rfl, rfl, h⟩
  | succ k ih =>
    obtain ⟨s', t', hs, ht, h'⟩ := sameOutcome_stepWith h Config.nMax
    rw [run_succ hs, run_succ ht]
    exact ih h'

/-! ### Straight after reset (R35) -/

/-- Every draft operation but DNEW is refused while there is no draft (R195). -/
theorem exec_of_needsDraft {i : Instr} {s : State} (hi : needsDraft i = true) (hs : s.dcre = false) :
    exec i s = raise .noDraft s := by
  cases i with
  | dor1 | dor2 | dset1 | dset2 | dstop | dfin => exact requireDraft_of_noDraft hs _
  | drstf f =>
    have hf : selectField f ≠ none := by
      rw [Ne, selectField_eq_none_iff, Bool.not_eq_false]
      exact hi
    obtain ⟨field, hfield⟩ := Option.ne_none_iff_exists'.mp hf
    show execDrstf f s = _
    simp only [execDrstf, hfield]
    exact requireDraft_of_noDraft hs _
  | csum | fnew | fconv | dnew | rcls | rval | rkind | rbytes => cases hi

theorem exec_rcls_of_kind {b : List Byte} {k : Kind} (h : kindOfLength b.length = some k) (s : State) :
    exec (.rcls b) s = complete [kindCode k] (loadResponse k b s) := by
  show execRcls b s = _
  simp only [execRcls, h]

theorem exec_rcls_of_noKind {b : List Byte} (h : kindOfLength b.length = none) (s : State) :
    exec (.rcls b) s = raise (.invalidValue (.responseLength (lengthByte b.length))) s := by
  show execRcls b s = _
  simp only [execRcls, h]

/-- A successful RCLS leaves the kind of the length and the bytes loaded, whatever was held before (R131). -/
theorem response_of_exec_rcls {b : List Byte} {s t : State} (hl : b.length ∈ responseLengths)
    (h : exec (.rcls b) s = .next t) :
    kindOfLength b.length = some t.rk ∧ significant t.toBlock = b := by
  cases hk : kindOfLength b.length with
  | none => exact absurd hl (kindOfLength_eq_none_iff.mp hk)
  | some k =>
    rw [exec_rcls_of_kind hk, complete_eq_next_iff] at h
    subst h
    exact ⟨rfl, significant_loadResponse k b s (eq_lenOf_of_kindOfLength hk)⟩

/-- The operations that need no setup have one answer for all states. -/
theorem exec_of_needsNoSetup {i : Instr} (hi : needsNoSetup i = true) :
    ∃ r, ∀ s, ∃ t, exec i s = .next t ∧ t.results = s.results ++ [r] := by
  cases i with
  | csum | fnew | dnew => exact ⟨_, fun _ => ⟨_, rfl, rfl⟩⟩
  | fconv b =>
    show ∃ r, ∀ s, ∃ t, execFconv b s = .next t ∧ t.results = s.results ++ [r]
    unfold execFconv
    split
    · exact ⟨_, fun _ => ⟨_, rfl, rfl⟩⟩
    · exact ⟨_, fun _ => ⟨_, rfl, rfl⟩⟩
  | rcls b =>
    cases hk : kindOfLength b.length with
    | some k => exact ⟨_, fun s => ⟨_, exec_rcls_of_kind hk s, rfl⟩⟩
    | none => exact ⟨_, fun s => ⟨_, exec_rcls_of_noKind hk s, rfl⟩⟩
  | dor1 | dor2 | dset1 | dset2 | dstop | drstf | dfin | rval | rkind | rbytes => cases hi

/-! ### The obligations of the family -/

/-- Settles O5: the step takes the request, and the decoder's answer is what runs. -/
theorem stepRunsTheDecodedInstruction : Obligations.StepRunsTheDecodedInstruction :=
  ⟨fun _ s _ rest _ hs hb => (stepWith_of_request hs).trans (performRequest_of_ok hb (takeInput rest s)), fun _ => rfl⟩

/-- Settles O6, by the step's case of no input. -/
theorem blockWaitsForARequest : Obligations.BlockWaitsForARequest :=
  fun _ _ => stepWith_of_noInput

/-- Settles O8: these are the fields of `State.reset`. -/
theorem resetStateHasTheSpecifiedValues : Obligations.ResetStateHasTheSpecifiedValues :=
  ⟨rfl, rfl, rfl, rfl⟩

/-- Settles O9: DCRE = 0 refuses the draft operations, RK = None answers the queries, and the operations that need no
setup answer alike from every state. -/
theorem consequencesOfTheResetState : Obligations.ConsequencesOfTheResetState := by
  refine ⟨rfl, rfl, fun _ => rfl, fun i hi => exec_of_needsDraft hi rfl, fun i hi s => ?_⟩
  obtain ⟨r, hr⟩ := exec_of_needsNoSetup hi
  obtain ⟨t, ht, htr⟩ := hr State.reset
  obtain ⟨u, hu, hur⟩ := hr s
  refine ⟨t, u, r, ht, hu, htr, hur, ?_, ?_⟩
  · rintro a rfl
    cases ht
    cases hu
    exact ⟨rfl, rfl⟩
  · rintro b rfl hl
    obtain ⟨htk, htb⟩ := response_of_exec_rcls hl ht
    obtain ⟨huk, hub⟩ := response_of_exec_rcls hl hu
    exact ⟨Option.some.inj (htk.symm.trans huk), htb.trans hub.symm⟩

/-- Settles O29, register by register over the writes an operation is allowed. -/
theorem registersChangeOnlyUnderTheirWriters : Obligations.RegistersChangeOnlyUnderTheirWriters := by
  intro i s t h
  obtain ⟨u, r, hu, rfl⟩ := exec_eq_next h
  have hresult : (respond r u).results = s.results ++ [r.bytes] := by rw [respond_results, hu.results]
  refine ⟨fun hne => ?_, hu.da.resolve_left, fieldChange_writer hu.dc1, fieldChange_writer hu.dc2,
    fieldChange_writer hu.dd1, fieldChange_writer hu.dd2, fun hne => ?_, ⟨r.bytes, hresult⟩, fun hne => ?_⟩
  · obtain ⟨a, ha, -⟩ := hu.dcre.resolve_left hne
    exact ⟨a, ha⟩
  · exact hu.response.resolve_left fun ⟨hk, hb, _⟩ => hne.elim (· hk) (· hb)
  · exact hu.response.resolve_left fun ⟨_, _, hf⟩ => hne hf

/-- Settles O27: each bitmask stays, is cleared whole, or has an operand ORed in. -/
theorem bitmaskBitsLeaveOnlyByWholeFieldClear : Obligations.BitmaskBitsLeaveOnlyByWholeFieldClear := by
  intro i s t k h
  obtain ⟨u, r, hu, rfl⟩ := exec_eq_next h
  exact ⟨fieldChange_bit_falls hu.dc1, fieldChange_bit_rises hu.dc1,
    fieldChange_bit_falls hu.dc2, fieldChange_bit_rises hu.dc2⟩

/-- Settles O28: an operation outside the eight ignores the draft, and every operation only adds its result. -/
theorem otherOperationsNeitherReadNorWriteTheDraft : Obligations.OtherOperationsNeitherReadNorWriteTheDraft := by
  refine ⟨fun i hi => ignoresDraft_exec hi, fun i s t h => ?_⟩
  obtain ⟨t', r, ht', hr, -⟩ := endsWithOneResult_exec i s
  obtain rfl := Host.Outcome.next.inj (h.symm.trans ht')
  exact ⟨[r], hr.symm⟩

/-- Settles O30, by what one step can do to DCRE. -/
theorem dcreRisesByDnewAndFallsByReset : Obligations.DcreRisesByDnewAndFallsByReset := by
  intro nMax s t h
  obtain hkept | ⟨hset, hdnew⟩ | ⟨hclear, hreset⟩ := dcre_of_stepWith h
  · rw [hkept]
    exact ⟨fun h₁ h₀ => by simp [h₁] at h₀, fun h₀ h₁ => by simp [h₀] at h₁⟩
  · exact ⟨fun _ h₀ => by simp [hset] at h₀, fun _ _ => hdnew⟩
  · exact ⟨fun _ _ => hreset, fun _ h₁ => by simp [hclear] at h₁⟩

/-- Settles O48: with DCRE = 0 and RK = None no operation can tell the two states apart, and a run keeps that (O47). -/
theorem unspecifiedResetValuesReachNoResult : Obligations.UnspecifiedResetValuesReachNoResult := by
  refine ⟨rfl, rfl, fun d buffer draws inputs k => ?_⟩
  have hsame : sameObservable { State.reset with inputs := inputs }
      { State.reset with draft := d, rb := buffer, freeCount := draws, inputs := inputs } :=
    ⟨rfl, fun hc => absurd hc Bool.false_ne_true, rfl, rfl, rfl, rfl⟩
  obtain ⟨t, u, ht, hu, -, -, -, -, hi, hr⟩ := sameOutcome_run hsame k
  exact ⟨t, u, ht, hu, hr, hi⟩

end Sys2Proof.Machine
end

/-! The family 20_memory: requests are answered in order, one result each, the draft writes are idempotent, the reads
write nothing, and 16-bit values travel high byte first (spec/20_memory.md R54, R56, R57). -/

section
namespace Sys2Proof.Machine

open HostLayer

/-! ### A list of requests (R57, R233) -/

/-- A step that takes a request returns one result and leaves the inputs behind it. -/
theorem step_of_request {s : State} {b : List Byte} {rest : List Input} (h : s.inputs = .request b :: rest) :
    ∃ t r, step s = .next t ∧ t.results = s.results ++ [r] ∧ t.inputs = rest := by
  obtain ⟨t, r, ht, hr, hi⟩ := endsWithOneResult_performRequest Config.nMax b (takeInput rest s)
  exact ⟨t, r, (stepWith_of_request h).trans ht, hr, hi⟩

/-! ### Operations that leave the block of once when done twice (R56) -/

/-- From every state the operation ends, and ends again when done again, with the registers of the first time. -/
def idempotentOnBlock (op : State → Host.Outcome State Fault Refusal) : Prop :=
  ∀ s, ∃ t u, op s = .next t ∧ op t = .next u ∧ u.toBlock = t.toBlock

theorem idempotentOnBlock_raise (f : Failure) : idempotentOnBlock (raise f) :=
  fun _ => ⟨_, _, rfl, rfl, rfl⟩

/-- Creating a draft discards what the draft held, so the second draft is the first. -/
theorem idempotentOnBlock_createDraft (payload : List Byte) (d : Draft) :
    idempotentOnBlock fun s => complete payload (createDraft d s) :=
  fun _ => ⟨_, _, rfl, rfl, rfl⟩

/-- A change of the draft is idempotent where its function on drafts is; without a draft both attempts are refused. -/
theorem idempotentOnBlock_editDraft {g : Draft → Draft} (hg : ∀ d, g (g d) = g d) :
    idempotentOnBlock fun s => requireDraft s (complete [] (writeDraft (g s.draft) s)) := by
  intro s
  cases hd : s.dcre with
  | true =>
    let t := respond (.ok []) (writeDraft (g s.draft) s)
    have htwice : { s.toBlock with draft := g (g s.draft) } = t.toBlock := by rw [hg]; rfl
    exact ⟨t, _, requireDraft_of_draft hd _, requireDraft_of_draft (s := t) hd _, htwice⟩
  | false =>
    let t := respond (.raised .noDraft) s
    exact ⟨t, _, requireDraft_of_noDraft hd _, requireDraft_of_noDraft (s := t) hd _, rfl⟩

theorem Draft.or1_or1 (m : Byte) (d : Draft) : (d.or1 m).or1 m = d.or1 m := by
  simp [BitVec.or_assoc]

theorem Draft.or2_or2 (m : Byte) (d : Draft) : (d.or2 m).or2 m = d.or2 m := by
  simp [BitVec.or_assoc]

theorem Draft.resetField_resetField (f : DraftField) (d : Draft) :
    (d.resetField f).resetField f = d.resetField f := by
  cases f <;> rfl

theorem idempotentOnBlock_exec {i : Instr} (h : isIdempotent i = true) : idempotentOnBlock (exec i) := by
  cases i with
  | dnew a => exact idempotentOnBlock_createDraft [] _
  | dor1 m => exact idempotentOnBlock_editDraft (Draft.or1_or1 m)
  | dor2 m => exact idempotentOnBlock_editDraft (Draft.or2_or2 m)
  | dset1 v => exact idempotentOnBlock_editDraft (g := Draft.set1 v) fun _ => rfl
  | dset2 v => exact idempotentOnBlock_editDraft (g := Draft.set2 v) fun _ => rfl
  | dstop => exact idempotentOnBlock_editDraft (g := Draft.stop) fun _ => rfl
  | drstf f =>
    show idempotentOnBlock (execDrstf f)
    unfold execDrstf
    split
    next => exact idempotentOnBlock_raise _
    next field _ => exact idempotentOnBlock_editDraft (Draft.resetField_resetField field)
  | csum | fnew | fconv | dfin | rcls | rval | rkind | rbytes => cases h

/-! ### Operations that only answer (R14, R56) -/

/-- The operation does nothing but return a result, which it computes from the block alone. -/
def answersFromBlock (op : State → Host.Outcome State Fault Refusal) : Prop :=
  ∃ answer : Block → Result, ∀ s, op s = .next (respond (answer s.toBlock) s)

theorem answersFromBlock_complete (payload : Block → List Byte) :
    answersFromBlock fun s => complete (payload s.toBlock) s :=
  ⟨fun block => .ok (payload block), fun _ => rfl⟩

theorem answersFromBlock_raise (f : Failure) : answersFromBlock (raise f) :=
  ⟨fun _ => .raised f, fun _ => rfl⟩

/-- The refusal of an operation that requires a draft is itself an answer computed from the block. -/
theorem answersFromBlock_requireDraft {op : State → Host.Outcome State Fault Refusal} (h : answersFromBlock op) :
    answersFromBlock fun s => requireDraft s (op s) := by
  obtain ⟨answer, hop⟩ := h
  refine ⟨fun block => if block.dcre then answer block else .raised .noDraft, fun s => ?_⟩
  cases hd : s.dcre with
  | true => simp only [requireDraft_of_draft hd, hop, hd, if_true]
  | false => simp [requireDraft_of_noDraft hd, raise_eq_next_iff, hd]

theorem answersFromBlock_exec {i : Instr} (h : isReadOnly i = true) : answersFromBlock (exec i) := by
  cases i with
  | csum b => exact answersFromBlock_complete fun _ => [checksum b]
  | fnew a c1 c2 d1 d2 => exact answersFromBlock_complete fun _ => frameNew a c1 c2 d1 d2
  | fconv b =>
    show answersFromBlock (execFconv b)
    unfold execFconv
    split
    · exact answersFromBlock_complete fun _ => b
    · exact answersFromBlock_raise _
  | dfin => exact answersFromBlock_requireDraft (answersFromBlock_complete fun block => block.draft.frame)
  | rval occ =>
    exact answersFromBlock_complete fun block => [verdictByte (checksumIsValid block.rk (significant block) occ)]
  | rkind => exact answersFromBlock_complete fun block => [kindCode block.rk]
  | rbytes => exact answersFromBlock_complete fun block => lengthByte (lenOf block.rk) :: significant block
  | dnew | dor1 | dor2 | dset1 | dset2 | dstop | drstf | rcls => cases h

/-! ### 16-bit values in extended commands (R54, R166, R169) -/

theorem expand_of_payload {p : HostParams} {c : ExtCommand} {q : Payload} (h : c.payload p = .ok q) (a : Byte) :
    c.expand p a = .ok (.fnew a q.subOpcode q.opcode q.dataHi q.dataLo) := by
  simp only [ExtCommand.expand, h]

/-- A payload with the two bytes of `be16 v` as its data expands to an FNEW that carries `v` high byte first. -/
theorem expand_of_be16 {p : HostParams} {c : ExtCommand} {subOpcode opcode : Byte} {v : BitVec 16}
    (h : c.payload p = .ok (pairPayload subOpcode opcode (be16 v))) (a : Byte) :
    ∃ hi lo, c.expand p a = .ok (.fnew a subOpcode opcode hi lo) ∧ hi.toNat * 256 + lo.toNat = v.toNat :=
  ⟨_, _, expand_of_payload h a, be16_toNat v⟩

/-- A command that carries an adjustment of `row`: both modes carry their 16 bits high byte first under one opcode byte,
and the parameters' leading bytes tell the modes apart. -/
theorem expand_of_adjustPayload {p : HostParams} {row : AdjustRow} {f : Adjustment → ExtCommand}
    (h : ∀ x, (f x).payload p = .ok (adjustPayload p row x)) (a : Byte) (v : BitVec 16) (d : Int) :
    ∃ c1 c1' c2 hi lo hi' lo',
      (f (.absolute v)).expand p a = .ok (.fnew a c1 c2 hi lo) ∧ hi.toNat * 256 + lo.toNat = v.toNat ∧
      (f (.delta d)).expand p a = .ok (.fnew a c1' c2 hi' lo') ∧
      hi'.toNat * 256 + lo'.toNat = (p.delta16 d).toNat ∧ (p.sourced → c1 ≠ c1') := by
  obtain ⟨hi, lo, habs, hv⟩ := expand_of_be16 (h (.absolute v)) a
  obtain ⟨hi', lo', hdelta, hd⟩ := expand_of_be16 (h (.delta d)) a
  exact ⟨_, _, _, hi, lo, hi', lo', habs, hv, hdelta, hd, fun ⟨_, _, hmodes⟩ => (hmodes row).symm⟩

/-! ### The obligations of the family -/

/-- Settles O12, by induction on the list of requests: each step takes one and appends its result. -/
theorem everyRequestGetsOneResultInOrder : Obligations.EveryRequestGetsOneResultInOrder := by
  intro s reqs rest h
  induction reqs generalizing s with
  | nil => exact ⟨s, [], run_zero s, h, (List.append_nil _).symm, rfl⟩
  | cons b reqs ih =>
    obtain ⟨u, r, hstep, hr, hi⟩ := step_of_request h
    obtain ⟨t, new, hrun, ht, hnew, hlen⟩ := ih u hi
    exact ⟨t, r :: new, (run_succ hstep).trans hrun, ht, by simp [hnew, hr], congrArg (· + 1) hlen⟩

/-- Settles O31: an OR, an overwrite, a clear and a new draft each give the same draft twice, and a refusal writes
nothing. -/
theorem draftWritesAreIdempotent : Obligations.DraftWritesAreIdempotent :=
  fun _ h => idempotentOnBlock_exec h

/-- Settles O32: the answer is computed from the block, which returning a result leaves as it is. -/
theorem readsHaveNoSideEffect : Obligations.ReadsHaveNoSideEffect := by
  intro i h s
  obtain ⟨answer, hexec⟩ := answersFromBlock_exec h
  refine ⟨(answer s.toBlock).bytes, hexec s, ?_⟩
  simp [hexec, respond]

/-- Settles O55: the data bytes are `be16` of the value, and each adjustment command is one row of the table. -/
theorem sixteenBitValuesAreBigEndian : Obligations.SixteenBitValuesAreBigEndian := by
  intro p a v d
  refine ⟨⟨_, _, expand_of_be16 (c := .setShutterSpeed (.value v)) rfl a⟩, ?_⟩
  simp only [List.forall_mem_cons]
  exact ⟨expand_of_adjustPayload (row := .phaseDelay) (fun _ => rfl) a v d,
    expand_of_adjustPayload (row := .gain) (fun _ => rfl) a v d,
    expand_of_adjustPayload (row := .whiteBalanceRB) (fun _ => rfl) a v d,
    expand_of_adjustPayload (row := .whiteBalanceMG) (fun _ => rfl) a v d,
    expand_of_adjustPayload (row := .irisLevel) (fun _ => rfl) a v d,
    expand_of_adjustPayload (row := .irisPeak) (fun _ => rfl) a v d, List.forall_mem_nil _⟩

end Sys2Proof.Machine
end

/-! The family 30_encoding: decoder and encoder undo each other on the well-formed instructions, the decoder refuses
what R81 calls illegal and nothing else, every result has a form of R79, and no verdict reads the sync byte, nor a General
one the address (spec/30_encoding.md R76 to R81). -/

section
namespace Sys2Proof.Machine

/-! ### The decoder accepts the requests of the well-formed instructions (R77, R78) -/

@[simp] theorem decodeWith_code (nMax : Nat) (o : Opcode) (rest : List Byte) :
    decodeWith nMax (o.code :: rest) = decodeOperands nMax o rest := by
  simp only [decodeWith, Opcode.ofByte_code]

theorem decodeWith_of_unknownCode {op : Byte} (h : Opcode.ofByte op = none) (nMax : Nat) (rest : List Byte) :
    decodeWith nMax (op :: rest) = .error (.unknownCode op) := by
  simp only [decodeWith, h]

/-- The operand bytes an instruction writes are read back as it exactly where the instruction is well-formed. -/
theorem decodeOperands_operandBytes_iff {nMax : Nat} {i : Instr} :
    decodeOperands nMax i.opcode i.operandBytes = .ok i ↔ i.wf nMax = true := by
  cases i with
  | csum b | fconv b | rcls b =>
    constructor
    · intro h
      obtain ⟨b', hb, heq⟩ := map_eq_ok_iff.mp h
      cases heq
      exact (decodeSequence_eq_ok_iff.mp hb).1
    · intro h
      exact map_eq_ok_iff.mpr ⟨b, decodeSequence_eq_ok_iff.mpr ⟨h, rfl⟩, rfl⟩
  | drstf f =>
    show (if selectorAllowed f then Except.ok (Instr.drstf f) else Except.error (DecodeError.badSelector f)) = _ ↔
      selectorAllowed f = true
    split <;> simp_all
  | fnew | dnew | dor1 | dor2 | dset1 | dset2 | dstop | dfin | rval | rkind | rbytes => exact iff_of_true rfl rfl

theorem decodeWith_encode_iff {nMax : Nat} {i : Instr} :
    decodeWith nMax (encode i) = .ok i ↔ i.wf nMax = true := by
  rw [encode_eq_cons, decodeWith_code, decodeOperands_operandBytes_iff]

/-- What the decoder accepts: the requests of the well-formed instructions, each as its own instruction. -/
theorem decodeWith_eq_ok_iff {nMax : Nat} {b : List Byte} {i : Instr} :
    decodeWith nMax b = .ok i ↔ i.wf nMax = true ∧ encode i = b := by
  constructor
  · intro h
    obtain rfl := encode_of_decodeWith h
    exact ⟨decodeWith_encode_iff.mp h, rfl⟩
  · rintro ⟨hwf, rfl⟩
    exact decodeWith_encode_iff.mpr hwf

/-! ### What each part of the decoder refuses (R81) -/

/-- The decoder, or a part of it, answers with a reason and no value. -/
def refuses {α : Type} (x : Except DecodeError α) : Prop := ∃ e, x = .error e

@[simp] theorem refuses_error {α : Type} (e : DecodeError) : refuses (.error e : Except DecodeError α) := ⟨e, rfl⟩

@[simp] theorem not_refuses_ok {α : Type} (x : α) : ¬ refuses (.ok x) := fun ⟨_, h⟩ => nomatch h

@[simp] theorem refuses_map {α β : Type} (f : α → β) (x : Except DecodeError α) : refuses (x.map f) ↔ refuses x := by
  cases x <;> simp [Except.map]

theorem refuses_decodeSequence_nil (nMax : Nat) : refuses (decodeSequence nMax []) := refuses_error _

theorem refuses_decodeSequence_cons {nMax : Nat} {n : Byte} {bytes : List Byte} :
    refuses (decodeSequence nMax (n :: bytes)) ↔ nMax < n.toNat ∨ bytes.length ≠ n.toNat := by
  simp only [decodeSequence]
  split_ifs <;> simp_all

theorem refuses_decodeByte {rest : List Byte} : refuses (decodeByte rest) ↔ rest.length ≠ 1 := by
  rcases rest with _ | ⟨x, _ | ⟨y, ys⟩⟩ <;> simp [decodeByte]

theorem refuses_decodeNothing {i : Instr} {rest : List Byte} : refuses (decodeNothing i rest) ↔ rest.length ≠ 0 := by
  cases rest <;> simp [decodeNothing]

/-- A selector of R81 (d) is one of 1 to 4. -/
theorem selectorAllowed_iff_mem {f : Byte} : selectorAllowed f = true ↔ f ∈ ([1, 2, 3, 4] : List Byte) := by
  simp [selectorAllowed, or_assoc]

theorem refuses_decodeOperands_fnew {nMax : Nat} {rest : List Byte} :
    refuses (decodeOperands nMax .fnew rest) ↔ rest.length ≠ 5 := by
  simp only [decodeOperands]
  split
  · simp
  next h =>
    refine iff_of_true (refuses_error _) fun hl => ?_
    match rest, hl with
    | [a, c1, c2, d1, d2], _ => exact h a c1 c2 d1 d2 rfl

/-- DRSTF is refused for its length, or for the selector (R81 (b), (d)). -/
theorem refuses_decodeOperands_drstf {nMax : Nat} {rest : List Byte} :
    refuses (decodeOperands nMax .drstf rest) ↔
      rest.length ≠ 1 ∨ ∃ f, rest = [f] ∧ f ∉ ([1, 2, 3, 4] : List Byte) := by
  simp only [decodeOperands]
  split
  next f hf =>
    obtain rfl := decodeByte_eq_ok_iff.mp hf
    simp only [← selectorAllowed_iff_mem]
    cases ha : selectorAllowed f <;> simp [ha]
  next e he => exact iff_of_true (refuses_error e) (.inl (refuses_decodeByte.mp ⟨e, he⟩))

/-! ### The cases of R81, by the operation the code names -/

theorem mem_operationCodes_iff {op : Byte} : op ∈ operationCodes ↔ ∃ o : Opcode, o.code = op := by
  constructor
  · intro h
    obtain ⟨o, -, ho⟩ := List.mem_map.mp (show op ∈ Opcode.all.map Opcode.code from h)
    exact ⟨o, ho⟩
  · rintro ⟨o, rfl⟩
    cases o <;> decide

theorem code_mem_sequenceCodes_iff {o : Opcode} : o.code ∈ sequenceCodes ↔ o.format = .sequence := by
  cases o <;> decide

theorem fixedOperands_code {o : Opcode} {k : Nat} (h : o.format = .fixed k) : fixedOperands o.code = k := by
  cases o <;> cases h <;> rfl

theorem code_eq_drstf_iff {o : Opcode} : o.code = 0x16 ↔ o = .drstf := by
  cases o <;> decide

theorem illegalRequest_of_unknownCode {op : Byte} (h : Opcode.ofByte op = none) (nMax : Nat) (rest : List Byte) :
    illegalRequest nMax (op :: rest) :=
  .inl fun hmem =>
    have ⟨o, ho⟩ := mem_operationCodes_iff.mp hmem
    Opcode.ofByte_eq_none_iff.mp h o ho

section
variable {nMax : Nat} {o : Opcode}

theorem illegalRequest_sequence_nil (h : o.format = .sequence) : illegalRequest nMax [o.code] :=
  .inr (.inl ⟨code_mem_sequenceCodes_iff.mpr h, trivial⟩)

theorem illegalRequest_sequence_cons (h : o.format = .sequence) {n : Byte} {bytes : List Byte} :
    illegalRequest nMax (o.code :: n :: bytes) ↔ nMax < n.toNat ∨ bytes.length ≠ n.toNat := by
  have hcode := mem_operationCodes_iff.mpr ⟨o, rfl⟩
  have hdrstf : o ≠ .drstf := by rintro rfl; cases h
  simp only [illegalRequest, hcode, code_mem_sequenceCodes_iff, h, code_eq_drstf_iff, hdrstf]
  simp

theorem illegalRequest_fixed {k : Nat} (h : o.format = .fixed k) {rest : List Byte} :
    illegalRequest nMax (o.code :: rest) ↔
      rest.length ≠ k ∨ (o = .drstf ∧ ∃ f, rest = [f] ∧ f ∉ ([1, 2, 3, 4] : List Byte)) := by
  have hcode := mem_operationCodes_iff.mpr ⟨o, rfl⟩
  simp only [illegalRequest, hcode, code_mem_sequenceCodes_iff, h, fixedOperands_code h, code_eq_drstf_iff]
  simp

end

theorem refuses_decodeSequence_iff {nMax : Nat} {o : Opcode} (h : o.format = .sequence) {rest : List Byte} :
    refuses (decodeSequence nMax rest) ↔ illegalRequest nMax (o.code :: rest) := by
  cases rest with
  | nil => exact iff_of_true (refuses_decodeSequence_nil nMax) (illegalRequest_sequence_nil h)
  | cons n bytes => rw [refuses_decodeSequence_cons, illegalRequest_sequence_cons h]

/-- Operation by operation, the operands are refused exactly where R81 calls the request illegal. -/
theorem refuses_decodeOperands_iff {nMax : Nat} {o : Opcode} {rest : List Byte} :
    refuses (decodeOperands nMax o rest) ↔ illegalRequest nMax (o.code :: rest) := by
  cases o with
  | csum | fconv | rcls => exact (refuses_map _ _).trans (refuses_decodeSequence_iff rfl)
  | fnew => rw [refuses_decodeOperands_fnew, illegalRequest_fixed rfl]; simp
  | dnew | dor1 | dor2 | dset1 | dset2 | rval =>
    rw [decodeOperands, refuses_map, refuses_decodeByte, illegalRequest_fixed rfl]; simp
  | dstop | dfin | rkind | rbytes =>
    rw [decodeOperands, refuses_decodeNothing, illegalRequest_fixed rfl]; simp
  | drstf => rw [refuses_decodeOperands_drstf, illegalRequest_fixed rfl]; simp

theorem refuses_decodeWith_iff {nMax : Nat} {b : List Byte} : refuses (decodeWith nMax b) ↔ illegalRequest nMax b := by
  cases b with
  | nil => exact iff_of_true (refuses_error _) trivial
  | cons op rest =>
    cases ho : Opcode.ofByte op with
    | none =>
      rw [decodeWith_of_unknownCode ho]
      exact iff_of_true (refuses_error _) (illegalRequest_of_unknownCode ho nMax rest)
    | some o =>
      obtain rfl := Opcode.code_of_ofByte ho
      rw [decodeWith_code, refuses_decodeOperands_iff]

/-! ### The forms of results (R79, R192) -/

/-- The length of a sequence that a request can carry is its length byte. -/
theorem toNat_lengthByte {n : Nat} (h : n ≤ 255) : (lengthByte n).toNat = n := by
  rw [lengthByte, BitVec.toNat_ofNat]
  omega

theorem length_le_of_sequenceFits {nMax : Nat} {b : List Byte} (h : sequenceFits nMax b = true) : b.length ≤ 255 := by
  simp only [sequenceFits, Bool.and_eq_true, decide_eq_true_eq] at h
  exact h.2

theorem payloadForm_of_frameLen {b : List Byte} (h : b.length = frameLen) : payloadForm b = true := by
  cases b with
  | nil => rfl
  | cons n b =>
    have hb : b.length = 6 := Nat.succ.inj h
    simp [payloadForm, hb]

/-- What RBYTES returns: the length of the kind and that many bytes (R133). -/
theorem payloadForm_significant (block : Block) :
    payloadForm (lengthByte (lenOf block.rk) :: significant block) = true := by
  have hlen := toNat_lengthByte ((lenOf_le block.rk).trans (by decide))
  simp [payloadForm, hlen, lenOf_mem_responseLengths]

theorem resultForm_ok {payload : List Byte} (h : payloadForm payload = true) :
    resultForm (Result.ok payload).bytes = true := by
  simp [resultForm, h]

/-- RCLS names a length that is no response length; one that wrapped modulo 256 could be one. -/
theorem resultForm_responseLength {n : Nat} (hn : n ∉ responseLengths) (hle : n ≤ 255) :
    resultForm (Result.raised (.invalidValue (.responseLength (lengthByte n)))).bytes = true := by
  simp [resultForm, causeForm, toNat_lengthByte hle, hn]

/-- FCONV names a length that is not 7. -/
theorem resultForm_frameLength {n : Nat} (hn : n ≠ frameLen) (hle : n ≤ 255) :
    resultForm (Result.raised (.invalidValue (.frameLength (lengthByte n)))).bytes = true := by
  have hbyte : lengthByte n ≠ 7#8 := fun h => hn (by rw [← toNat_lengthByte hle, h]; rfl)
  simp [resultForm, causeForm, hbyte]

/-- Whatever state comes next, all its results have a form of R79. -/
def nextHasForm (o : Host.Outcome State Fault Refusal) : Prop := ∀ t, o = .next t → ResultsHaveForm t

section
variable {s : State} (h : ResultsHaveForm s)
include h

theorem resultsHaveForm_respond {r : Result} (hr : resultForm r.bytes = true) : ResultsHaveForm (respond r s) := by
  intro x hx
  rw [respond_results, List.mem_append, List.mem_singleton] at hx
  obtain hold | rfl := hx
  · exact h x hold
  · exact hr

theorem nextHasForm_complete {payload : List Byte} (hp : payloadForm payload = true) :
    nextHasForm (complete payload s) := by
  intro t ht
  obtain rfl := complete_eq_next_iff.mp ht
  exact resultsHaveForm_respond h (resultForm_ok hp)

theorem nextHasForm_raise {f : Failure} (hf : resultForm (Result.raised f).bytes = true) :
    nextHasForm (raise f s) := by
  intro t ht
  obtain rfl := raise_eq_next_iff.mp ht
  exact resultsHaveForm_respond h hf

theorem nextHasForm_requireDraft {effect : Host.Outcome State Fault Refusal} (he : nextHasForm effect) :
    nextHasForm (requireDraft s effect) := by
  cases hd : s.dcre with
  | true => rwa [requireDraft_of_draft hd]
  | false => rw [requireDraft_of_noDraft hd]; exact nextHasForm_raise h rfl

theorem nextHasForm_editDraft (d : Draft) : nextHasForm (requireDraft s (complete [] (writeDraft d s))) :=
  nextHasForm_requireDraft h (nextHasForm_complete (s := writeDraft d s) h rfl)

/-- Well-formedness matters to FCONV and RCLS alone: it keeps the length they report from wrapping. -/
theorem nextHasForm_exec {nMax : Nat} {i : Instr} (hi : i.wf nMax = true) : nextHasForm (exec i s) := by
  cases i with
  | csum b => exact nextHasForm_complete h rfl
  | fnew a c1 c2 d1 d2 => exact nextHasForm_complete h (payloadForm_of_frameLen rfl)
  | fconv b =>
    show nextHasForm (execFconv b s)
    unfold execFconv
    split
    next hb => exact nextHasForm_complete h (payloadForm_of_frameLen hb)
    next hb => exact nextHasForm_raise h (resultForm_frameLength hb (length_le_of_sequenceFits hi))
  | dnew a => exact nextHasForm_complete (s := createDraft (Draft.new a) s) h rfl
  | dor1 | dor2 | dset1 | dset2 | dstop => exact nextHasForm_editDraft h _
  | drstf f =>
    show nextHasForm (execDrstf f s)
    unfold execDrstf
    split
    · exact nextHasForm_raise h rfl
    · exact nextHasForm_editDraft h _
  | dfin => exact nextHasForm_requireDraft h (nextHasForm_complete h (payloadForm_of_frameLen rfl))
  | rcls b =>
    cases hk : kindOfLength b.length with
    | some k =>
      rw [exec_rcls_of_kind hk]
      exact nextHasForm_complete (s := loadResponse k b s) h rfl
    | none =>
      rw [exec_rcls_of_noKind hk]
      exact nextHasForm_raise h
        (resultForm_responseLength (kindOfLength_eq_none_iff.mp hk) (length_le_of_sequenceFits hi))
  | rval occ => exact nextHasForm_complete h rfl
  | rkind => exact nextHasForm_complete h rfl
  | rbytes => exact nextHasForm_complete h (payloadForm_significant s.toBlock)

theorem nextHasForm_performRequest (nMax : Nat) (b : List Byte) : nextHasForm (performRequest nMax b s) := by
  cases hb : decodeWith nMax b with
  | ok i =>
    rw [performRequest_of_ok hb]
    exact nextHasForm_exec h (decodeWith_eq_ok_iff.mp hb).1
  | error e =>
    rw [performRequest_of_error hb]
    exact nextHasForm_raise h rfl

theorem nextHasForm_applyReset : nextHasForm (applyReset s) := by
  rintro _ ⟨⟩
  exact h

theorem nextHasForm_stepWith (nMax : Nat) : nextHasForm (stepWith nMax s) := by
  match hs : s.inputs with
  | [] =>
    rw [stepWith_of_noInput hs]
    rintro _ ⟨⟩
    exact h
  | .request b :: rest =>
    rw [stepWith_of_request hs]
    exact nextHasForm_performRequest (s := takeInput rest s) h nMax b
  | .reset :: rest =>
    rw [stepWith_of_reset hs]
    exact nextHasForm_applyReset (s := takeInput rest s) h
  | .resetDuring b :: rest =>
    rw [stepWith_of_resetDuring hs]
    exact nextHasForm_applyReset (s := takeInput rest s) h

end

/-! ### Bytes no verdict reads (R76, R137) -/

theorem slice_set_of_lt {i j : Nat} (h : i < j) (r : List Byte) (x : Byte) (k : Nat) :
    slice (r.set i x) j k = slice r j k := by
  rw [slice, slice, List.drop_set_of_lt h]

/-- Every kind's sum starts at offset 1 or later, and its checksum byte stands last. -/
theorem checksumIsValid_set_sync (k : Kind) (r : List Byte) (occ x : Byte) :
    checksumIsValid k (r.set 0 x) occ = checksumIsValid k r occ := by
  cases k <;> simp [checksumIsValid, slice_set_of_lt]

/-- A General response is judged by its bytes 2 and 3. -/
theorem checksumIsValid_set_address (r : List Byte) (occ x : Byte) :
    checksumIsValid .general (r.set 1 x) occ = checksumIsValid .general r occ := by
  simp [checksumIsValid, slice_set_of_lt]

theorem significant_set (block : Block) {i : Nat} (hi : i < 18) (x : Byte) :
    significant { block with rb := block.rb.set i x hi } = (significant block).set i x := by
  rw [significant, Vector.toList_set, List.take_set, significant]

theorem exec_rval (occ : Byte) (s : State) :
    exec (.rval occ) s = complete [verdictByte (checksumIsValid s.rk (significant s.toBlock) occ)] s := rfl

/-- A buffer byte that the verdict on the kind held does not read may be any byte. -/
theorem exec_rval_set {occ x : Byte} {s : State} {i : Nat} (hi : i < 18)
    (h : ∀ r : List Byte, checksumIsValid s.rk (r.set i x) occ = checksumIsValid s.rk r occ) :
    exec (.rval occ) { s with rb := s.rb.set i x hi } =
      complete [verdictByte (checksumIsValid s.rk (significant s.toBlock) occ)] { s with rb := s.rb.set i x hi } := by
  rw [exec_rval, ← h (significant s.toBlock), ← significant_set s.toBlock hi]

/-! ### The obligations of the family -/

/-- Settles O1: what the decoder accepts is said exactly, and a well-formed instruction's request is among it. -/
theorem decodeOfEncodeIsTheInstruction : Obligations.DecodeOfEncodeIsTheInstruction :=
  fun _ _ _ hwf => decodeWith_eq_ok_iff.mpr ⟨hwf, rfl⟩

/-- Settles O2, the other direction. -/
theorem encodeOfDecodeIsTheRequest : Obligations.EncodeOfDecodeIsTheRequest :=
  fun _ _ _ => decodeWith_eq_ok_iff.mp

/-- Settles O45: each operation returns a form of R79 from an accepted request, and a reset returns nothing. -/
theorem resultFormsAreKeptByEveryStep : Obligations.ResultFormsAreKeptByEveryStep :=
  fun nMax _ t h => nextHasForm_stepWith h nMax t

/-- Settles O3, operation by operation; the refusal is raised from the state with the request taken. -/
theorem illegalRequestsAreAnsweredIllegalOp : Obligations.IllegalRequestsAreAnsweredIllegalOp := by
  intro nMax _ b s rest hs
  refine ⟨refuses_decodeWith_iff, fun hillegal => ?_⟩
  obtain ⟨e, he⟩ := refuses_decodeWith_iff.mpr hillegal
  exact (stepWith_of_request hs).trans (performRequest_of_error he (takeInput rest s))

/-- Settles O39: the verdict on the bytes of RB is one that byte 0, or byte 1 of a General response, does not enter. -/
theorem verdictIgnoresSyncAndGeneralAddress : Obligations.VerdictIgnoresSyncAndGeneralAddress := by
  intro occ x s
  refine ⟨_, exec_rval occ s, exec_rval_set (by decide) fun r => checksumIsValid_set_sync s.rk r occ x, fun hk => ?_⟩
  exact exec_rval_set (by decide) fun r => by rw [hk, checksumIsValid_set_address]

/-- Settles O4, by running the decoder. -/
theorem requestsFromTheSpecDecode : Obligations.RequestsFromTheSpecDecode :=
  ⟨rfl, rfl, rfl, rfl, rfl, rfl, rfl, rfl, rfl, rfl, rfl, rfl⟩

/-- Settles O46: no result has been returned yet. -/
theorem resultFormsHoldAtReset : Obligations.ResultFormsHoldAtReset :=
  fun _ h => nomatch h

end Sys2Proof.Machine
end

/-! The family 40_checksum: CSUM returns the integer sum of its bytes modulo 256, the accumulator holds that sum modulo
2^32, and the checksum is additive over concatenation (spec/40_checksum.md R100 to R104). -/

section
namespace Sys2Proof.Machine

/-! ### The accumulator and the checksum as integer sums (R100, R103) -/

theorem toNat_accumulate (b : List Byte) : (accumulate b).toNat = byteSum b % 2 ^ 32 := by
  simp [accumulate, toNat_foldl_add]

/-- The checksum as R100 defines it, without the accumulator. -/
theorem checksum_eq_ofNat_byteSum (b : List Byte) : checksum b = BitVec.ofNat 8 (byteSum b) :=
  BitVec.eq_of_toNat_eq (by rw [checksum, toNat_low8_accumulate, BitVec.toNat_ofNat])

theorem byteSum_perm {a b : List Byte} (h : a.Perm b) : byteSum a = byteSum b := (h.map BitVec.toNat).sum_eq

/-! ### The checksum of the empty sequence, of one byte and of a concatenation (R104) -/

@[simp] theorem checksum_nil : checksum [] = 0 := rfl

@[simp] theorem checksum_singleton (x : Byte) : checksum [x] = x := by
  rw [checksum_eq_ofNat_byteSum, byteSum_cons, byteSum_nil, Nat.add_zero, BitVec.ofNat_toNat, BitVec.setWidth_eq]

@[simp] theorem checksum_append (a b : List Byte) : checksum (a ++ b) = checksum a + checksum b := by
  simp only [checksum_eq_ofNat_byteSum, byteSum_append, BitVec.ofNat_add]

theorem checksum_perm {a b : List Byte} (h : a.Perm b) : checksum a = checksum b := by
  rw [checksum_eq_ofNat_byteSum, checksum_eq_ofNat_byteSum, byteSum_perm h]

theorem checksum_concat (a : List Byte) (x : Byte) : checksum (a ++ [x]) = checksum a + x := by
  rw [checksum_append, checksum_singleton]

/-! ### The operation CSUM (R101) -/

theorem exec_csum (b : List Byte) (s : State) : exec (.csum b) s = complete [checksum b] s := rfl

/-! ### The obligations of the family -/

/-- Settles O13: CSUM completes with the checksum, which is the integer sum as a byte. -/
theorem csumReturnsTheSumModulo256 : Obligations.CsumReturnsTheSumModulo256 := by
  refine fun b s => ⟨fun _ => encode_eq_cons (.csum b), ?_⟩
  rw [exec_csum, checksum_eq_ofNat_byteSum]
  rfl

/-- Settles O14: both bounds are the bound 255 n on the sum of n bytes, and 255 * 16843009 = 2^32 - 1. -/
theorem accumulatorHoldsTheSum : Obligations.AccumulatorHoldsTheSum := by
  intro b
  have hacc := toNat_accumulate b
  have hle := byteSum_le b
  refine ⟨hacc, ?_, fun hlen => ?_, fun hlen => ?_⟩ <;> omega

/-- Settles O15: the last two laws are those of concatenation and of one byte together. -/
theorem checksumLaws : Obligations.ChecksumLaws :=
  ⟨checksum_nil, checksum_singleton, checksum_append, fun _ _ => checksum_perm, checksum_concat,
    fun a => (checksum_concat a 0x00).trans (BitVec.add_zero _)⟩

end Sys2Proof.Machine
end

/-! The family 41_frame_formatter: every frame returned is well-formed, each draft operation changes the draft as its rule
says and is refused without one, and a history of them finalizes to the frame of the draft it folds to
(spec/41_frame_formatter.md R110 to R123). -/

section
namespace Sys2Proof.Machine

open HostLayer

/-! ### frame_new and well-formed frames (R110, R114) -/

theorem frameNew_eq_byteSum (a c1 c2 d1 d2 : Byte) :
    frameNew a c1 c2 d1 d2 = [0xFF, a, c1, c2, d1, d2, BitVec.ofNat 8 (byteSum [a, c1, c2, d1, d2])] := by
  rw [frameNew, checksum_eq_ofNat_byteSum, sync]

theorem slice_frameNew (a c1 c2 d1 d2 : Byte) : slice (frameNew a c1 c2 d1 d2) 1 6 = [a, c1, c2, d1, d2] := rfl

theorem frameNew_injective {a c1 c2 d1 d2 a' c1' c2' d1' d2' : Byte}
    (h : frameNew a c1 c2 d1 d2 = frameNew a' c1' c2' d1' d2') : [a, c1, c2, d1, d2] = [a', c1', c2', d1', d2'] :=
  congrArg (slice · 1 6) h

/-- Of seven bytes the well-formed ones have 0xFF first and the checksum of the five between last. -/
theorem wellFormedFrame_seven_iff {x a c1 c2 d1 d2 y : Byte} :
    wellFormedFrame [x, a, c1, c2, d1, d2, y] = true ↔
      x = 0xFF ∧ y = BitVec.ofNat 8 (byteSum [a, c1, c2, d1, d2]) := by
  simp [wellFormedFrame, slice]

theorem wellFormedFrame_iff {f : List Byte} :
    wellFormedFrame f = true ↔ ∃ a c1 c2 d1 d2, f = frameNew a c1 c2 d1 d2 := by
  constructor
  · intro h
    have hlen : f.length = 7 := by
      simp only [wellFormedFrame, Bool.and_eq_true, beq_iff_eq] at h
      obtain ⟨⟨hlen, -⟩, -⟩ := h
      exact hlen
    match f, hlen with
    | [x, a, c1, c2, d1, d2, y], _ =>
      obtain ⟨rfl, rfl⟩ := wellFormedFrame_seven_iff.mp h
      exact ⟨a, c1, c2, d1, d2, (frameNew_eq_byteSum a c1 c2 d1 d2).symm⟩
  · rintro ⟨a, c1, c2, d1, d2, rfl⟩
    rw [frameNew_eq_byteSum, wellFormedFrame_seven_iff]
    exact ⟨rfl, rfl⟩

theorem wellFormedFrame_frameNew (a c1 c2 d1 d2 : Byte) : wellFormedFrame (frameNew a c1 c2 d1 d2) = true :=
  wellFormedFrame_iff.mpr ⟨a, c1, c2, d1, d2, rfl⟩

/-- The checksum of an address and four zeros is the address (R115). -/
theorem frame_draft_new (a : Byte) : (Draft.new a).frame = [0xFF, a, 0x00, 0x00, 0x00, 0x00, a] := by
  have hsum : checksum ([a] ++ [0, 0, 0, 0]) = a := by
    rw [checksum_append, checksum_singleton]
    exact BitVec.add_zero a
  exact congrArg ([0xFF, a, 0x00, 0x00, 0x00, 0x00, ·]) hsum

/-! ### The meanings of the unit (R111 to R122) -/

theorem exec_fnew (a c1 c2 d1 d2 : Byte) (s : State) :
    exec (.fnew a c1 c2 d1 d2) s = complete (frameNew a c1 c2 d1 d2) s := rfl

theorem exec_fconv_of_length {b : List Byte} (h : b.length = frameLen) (s : State) :
    exec (.fconv b) s = complete b s :=
  if_pos h

theorem exec_fconv_of_otherLength {b : List Byte} (h : b.length ≠ frameLen) (s : State) :
    exec (.fconv b) s = raise (.invalidValue (.frameLength (lengthByte b.length))) s :=
  if_neg h

theorem exec_dnew (a : Byte) (s : State) : exec (.dnew a) s = complete [] (createDraft (Draft.new a) s) := rfl

theorem exec_dfin {s : State} (h : s.dcre = true) : exec .dfin s = complete s.draft.frame s :=
  requireDraft_of_draft h _

theorem exec_drstf {f : Byte} {field : DraftField} (hf : selectField f = some field) {s : State} (hs : s.dcre = true) :
    exec (.drstf f) s = complete [] (writeDraft (s.draft.resetField field) s) := by
  show execDrstf f s = _
  simp only [execDrstf, hf]
  exact requireDraft_of_draft hs _

theorem exec_drstf_of_badSelector {f : Byte} (h : selectorAllowed f = false) (s : State) :
    exec (.drstf f) s = raise .illegalOp s := by
  show execDrstf f s = _
  simp only [execDrstf, selectField_eq_none_iff.mpr h]

/-- What the operations of R116 to R121 make of the draft; any other operation, and a DRSTF of no field, leaves it. -/
def Draft.edit (d : Draft) : Instr → Draft
  | .dor1 m => d.or1 m
  | .dor2 m => d.or2 m
  | .dset1 v => d.set1 v
  | .dset2 v => d.set2 v
  | .dstop => d.stop
  | .drstf f => (selectField f).elim d d.resetField
  | _ => d

theorem exists_selectField {f : Byte} (h : selectorAllowed f = true) : ∃ field, selectField f = some field := by
  refine Option.ne_none_iff_exists'.mp fun hnone => ?_
  simp [selectField_eq_none_iff, h] at hnone

/-- With a draft, each of R116 to R121 returns OK and leaves the edited draft, all else as it was. -/
theorem exec_edit {i : Instr} (h : isDraftEdit i = true) {s : State} (hs : s.dcre = true) :
    exec i s = complete [] (writeDraft (s.draft.edit i) s) := by
  cases i with
  | dor1 | dor2 | dset1 | dset2 | dstop => exact requireDraft_of_draft hs _
  | drstf f =>
    obtain ⟨field, hfield⟩ := exists_selectField h
    rw [exec_drstf hfield hs, Draft.edit, hfield, Option.elim_some]
  | csum | fnew | fconv | dnew | dfin | rcls | rval | rkind | rbytes => cases h

/-! ### What a history folds to (R123) -/

/-- The operation issued last either clears the field or is the latest since the last clear. -/
theorem sinceCleared_concat (selector : Byte) (history : List Instr) (i : Instr) :
    sinceCleared selector (history ++ [i]) =
      if clearsField selector i then [] else i :: sinceCleared selector history := by
  cases h : clearsField selector i <;> simp [sinceCleared, h]

theorem foldedDraft_nil (a : Byte) : foldedDraft a [] = Draft.new a := rfl

/-- An edit more changes the folded draft as it changes a draft: its operand is the latest since the
field's last clear, or the field is cleared. -/
theorem foldedDraft_concat (a : Byte) (history : List Instr) {i : Instr} (h : isDraftEdit i = true) :
    foldedDraft a (history ++ [i]) = (foldedDraft a history).edit i := by
  simp only [foldedDraft, sinceCleared_concat]
  cases i with
  | dor1 m => rw [Draft.edit, Draft.or1, BitVec.or_comm]; rfl
  | dor2 m => rw [Draft.edit, Draft.or2, BitVec.or_comm]; rfl
  | dset1 | dset2 | dstop => rfl
  | drstf f =>
    obtain ⟨field, hfield⟩ := exists_selectField h
    obtain ⟨rfl, -⟩ | ⟨rfl, -⟩ | ⟨rfl, -⟩ | ⟨rfl, -⟩ := selectField_eq_some hfield
    · rfl
    · rfl
    · rfl
    · rfl
  | csum | fnew | fconv | dnew | dfin | rcls | rval | rkind | rbytes => cases h

theorem foldedDraft_eq_foldl (a : Byte) {history : List Instr} (h : ∀ i ∈ history, isDraftEdit i = true) :
    foldedDraft a history = history.foldl Draft.edit (Draft.new a) := by
  induction history using List.reverseRecOn with
  | nil => exact foldedDraft_nil a
  | append_singleton history i ih =>
    rw [List.forall_mem_append, List.forall_mem_singleton] at h
    rw [foldedDraft_concat a history h.2, ih h.1, List.foldl_concat]

/-! ### Issued lists of operations (R57, R123) -/

/-- The step that takes the request of a well-formed operation runs that operation. -/
theorem step_of_issued {i : Instr} {is : List Instr} {s : State} {rest : List Input} (hi : i.wf Config.nMax = true)
    (h : s.inputs = issue (i :: is) ++ rest) : step s = exec i (takeInput (issue is ++ rest) s) :=
  (stepWith_of_request h).trans (performRequest_of_ok (decodeWith_encode_iff.mpr hi) _)

theorem wf_of_isDraftEdit {i : Instr} (h : isDraftEdit i = true) (nMax : Nat) : i.wf nMax = true := by
  cases i with
  | dor1 | dor2 | dset1 | dset2 | dstop => rfl
  | drstf f => exact h
  | csum | fnew | fconv | dnew | dfin | rcls | rval | rkind | rbytes => cases h

/-- One step from `s` returns OK and leaves this draft, DCRE = 1, and these inputs. -/
def stepsToDraft (s : State) (d : Draft) (inputs : List Input) : Prop :=
  ∃ t, step s = .next t ∧ t.dcre = true ∧ t.draft = d ∧ t.inputs = inputs ∧ t.results = s.results ++ [[0x00]]

section
variable {s : State} {ops : List Instr} {rest : List Input}

theorem stepsToDraft_dnew {a : Byte} (h : s.inputs = issue (.dnew a :: ops) ++ rest) :
    stepsToDraft s (Draft.new a) (issue ops ++ rest) :=
  ⟨_, step_of_issued rfl h, rfl, rfl, rfl, rfl⟩

theorem stepsToDraft_edit {i : Instr} (hi : isDraftEdit i = true) (hs : s.dcre = true)
    (h : s.inputs = issue (i :: ops) ++ rest) : stepsToDraft s (s.draft.edit i) (issue ops ++ rest) :=
  ⟨_, (step_of_issued (wf_of_isDraftEdit hi _) h).trans (exec_edit hi hs), hs, rfl, rfl, rfl⟩

/-- Edits issued while there is a draft are all OK, and the draft goes through them in order. -/
theorem run_of_issued_edits {edits : List Instr} (he : ∀ i ∈ edits, isDraftEdit i = true) (hs : s.dcre = true)
    (h : s.inputs = issue (edits ++ ops) ++ rest) :
    ∃ t, run edits.length s = .next t ∧ t.dcre = true ∧ t.draft = edits.foldl Draft.edit s.draft ∧
      t.inputs = issue ops ++ rest ∧ t.results = s.results ++ List.replicate edits.length [0x00] := by
  induction edits generalizing s with
  | nil => exact ⟨s, run_zero s, hs, rfl, h, (List.append_nil _).symm⟩
  | cons i edits ih =>
    rw [List.forall_mem_cons] at he
    obtain ⟨hi, he⟩ := he
    obtain ⟨u, hstep, hu, hdraft, hinputs, hresults⟩ := stepsToDraft_edit hi hs h
    obtain ⟨t, hrun, ht, hdraft', hinputs', hresults'⟩ := ih he hu hinputs
    refine ⟨t, (run_succ hstep).trans hrun, ht, ?_, hinputs', ?_⟩
    · rw [hdraft', hdraft, List.foldl_cons]
    · simp [hresults', hresults, List.replicate_succ]

end

/-! ### The obligations of the family -/

/-- Settles O25: both results are `frameNew` of five bytes, and the well-formed frames are exactly those. -/
theorem framesAreWellFormed : Obligations.FramesAreWellFormed := by
  refine ⟨fun a c1 c2 d1 d2 s => ⟨_, wellFormedFrame_frameNew a c1 c2 d1 d2, exec_fnew a c1 c2 d1 d2 s⟩,
    fun s hs => ⟨s.draft.frame, wellFormedFrame_frameNew _ _ _ _ _, exec_dfin hs⟩, fun f hf => ?_⟩
  obtain ⟨a, c1, c2, d1, d2, rfl⟩ := wellFormedFrame_iff.mp hf
  exact ⟨a, c1, c2, d1, d2, rfl, slice_frameNew a c1 c2 d1 d2⟩

/-- Settles O26: DNEW creates a clear draft, the history edits it in order, which is what it folds to, and DFIN returns
its frame. -/
theorem draftHistoryFinalizesToTheFoldedFrame : Obligations.DraftHistoryFinalizesToTheFoldedFrame := by
  intro a history s rest he h
  obtain ⟨u, hnew, hu, hudraft, huinputs, huresults⟩ := stepsToDraft_dnew h
  obtain ⟨t, hrun, ht, htdraft, htinputs, htresults⟩ := run_of_issued_edits he hu huinputs
  have hfin : step t = .next (respond (.ok t.draft.frame) (takeInput rest t)) :=
    (step_of_issued (is := []) rfl htinputs).trans (exec_dfin ht)
  have hdraft : t.draft = foldedDraft a history := by rw [htdraft, hudraft, foldedDraft_eq_foldl a he]
  refine ⟨respond (.ok t.draft.frame) (takeInput rest t), ?_, rfl, hdraft, ?_⟩
  · calc run (history.length + 2) s
      _ = run (history.length + 1) u := run_succ hnew
      _ = run 1 t := run_add hrun
      _ = _ := (run_succ hfin).trans (run_zero _)
  · simp [hdraft, htresults, huresults, List.replicate_succ, Draft.frame, foldedDraft]

/-- Settles O16: the checksum is the integer sum as a byte, and the five bytes are the slice from 1 to 5. -/
theorem frameNewIsTheFrameAndInjective : Obligations.FrameNewIsTheFrameAndInjective := by
  refine ⟨frameNew_eq_byteSum, fun a c1 c2 d1 d2 a' c1' c2' d1' d2' h => ?_⟩
  simpa using frameNew_injective h

/-- Settles O17: FNEW completes with the frame. -/
theorem fnewReturnsTheFrame : Obligations.FnewReturnsTheFrame := by
  refine fun a c1 c2 d1 d2 s => ⟨encode_eq_cons _, ?_⟩
  rw [exec_fnew, frameNew_eq_byteSum]
  rfl

/-- Settles O18, by the two cases of the length. -/
theorem fconvReturnsSevenBytesUnchanged : Obligations.FconvReturnsSevenBytesUnchanged :=
  fun _ s _ => ⟨encode_eq_cons _, fun h => exec_fconv_of_length h s, fun h => exec_fconv_of_otherLength h s⟩

/-- Settles O19: the checksum of `a` and four zeros is `a`, and a write of DA is a DNEW's. -/
theorem dnewCreatesAClearDraft : Obligations.DnewCreatesAClearDraft := by
  intro a s
  refine ⟨encode_eq_cons _, ⟨_, rfl, exec_dnew a s, ?_⟩, fun i t h hne => ?_⟩
  · rw [exec_dfin rfl]
    exact congrArg (complete · _) (frame_draft_new a)
  · obtain ⟨u, r, hu, rfl⟩ := exec_eq_next h
    exact hu.da.resolve_left hne

/-- Settles O20: both are edits of the draft, and need one. -/
theorem dorAddsBits : Obligations.DorAddsBits :=
  fun _ _ => ⟨encode_eq_cons _, encode_eq_cons _, fun h => ⟨exec_edit rfl h, exec_edit rfl h⟩,
    fun h => ⟨exec_of_needsDraft rfl h, exec_of_needsDraft rfl h⟩⟩

/-- Settles O21: both are edits of the draft, and need one. -/
theorem dsetOverwritesData : Obligations.DsetOverwritesData :=
  fun _ _ => ⟨encode_eq_cons _, encode_eq_cons _, fun h => ⟨exec_edit rfl h, exec_edit rfl h⟩,
    fun h => ⟨exec_of_needsDraft rfl h, exec_of_needsDraft rfl h⟩⟩

/-- Settles O22: DSTOP is an edit of the draft, and needs one. -/
theorem dstopClearsFieldsKeepsAddress : Obligations.DstopClearsFieldsKeepsAddress :=
  fun _ => ⟨encode_eq_cons _, exec_edit rfl, exec_of_needsDraft rfl⟩

/-- Settles O23: an allowed selector names its field, any other is refused for the form first. -/
theorem drstfClearsTheSelectedField : Obligations.DrstfClearsTheSelectedField := by
  refine fun f s => ⟨encode_eq_cons _, ?_, ?_, ?_, ?_, fun h hf => ?_, fun hf => ?_⟩
  · rintro h rfl
    exact exec_drstf selectField_one h
  · rintro h rfl
    exact exec_drstf selectField_two h
  · rintro h rfl
    exact exec_drstf selectField_three h
  · rintro h rfl
    exact exec_drstf selectField_four h
  · exact exec_of_needsDraft (selectorAllowed_iff_mem.mpr hf) h
  · exact exec_drstf_of_badSelector (Bool.eq_false_iff.mpr (hf ∘ selectorAllowed_iff_mem.mp)) s

/-- Settles O24: DFIN completes with the frame of the draft. -/
theorem dfinReturnsTheFrameOfTheDraft : Obligations.DfinReturnsTheFrameOfTheDraft := by
  refine fun s => ⟨encode_eq_cons _, fun h => ?_, exec_of_needsDraft rfl⟩
  rw [exec_dfin h, Draft.frame, frameNew_eq_byteSum]
  rfl

end Sys2Proof.Machine
end

/-! The family 42_response: RCLS classifies a response by its length alone, RVAL judges the bytes held by the sum of their
kind, RKIND and RBYTES return what is held, and only RCLS replaces it (spec/42_response.md R130 to R139). -/

section
namespace Sys2Proof.Machine

/-! ### Kinds and their lengths (R26, R130) -/

theorem kindOfLength_lenOf (k : Kind) : kindOfLength (lenOf k) = some k := by cases k <;> rfl

theorem kindOfLength_eq_some_iff {n : Nat} {k : Kind} : kindOfLength n = some k ↔ lenOf k = n :=
  ⟨fun h => (eq_lenOf_of_kindOfLength h).symm, fun h => h ▸ kindOfLength_lenOf k⟩

theorem exists_lenOf_of_mem {n : Nat} (h : n ∈ responseLengths) : ∃ k, n = lenOf k := by
  have hsome : kindOfLength n ≠ none := fun hnone => kindOfLength_eq_none_iff.mp hnone h
  obtain ⟨k, hk⟩ := Option.ne_none_iff_exists'.mp hsome
  exact ⟨k, eq_lenOf_of_kindOfLength hk⟩

/-! ### What the operations of the unit answer (R131 to R133) -/

theorem exec_rcls_of_length {b : List Byte} {k : Kind} (h : b.length = lenOf k) (s : State) :
    exec (.rcls b) s = complete [kindCode k] (loadResponse k b s) :=
  exec_rcls_of_kind (kindOfLength_eq_some_iff.mpr h.symm) s

theorem exec_rkind_of_kind {s : State} {k : Kind} (h : s.rk = k) : exec .rkind s = complete [kindCode k] s :=
  h ▸ rfl

theorem exec_rbytes_of_held {s : State} {k : Kind} {b : List Byte} (hk : s.rk = k) (hb : significant s.toBlock = b) :
    exec .rbytes s = complete (lengthByte (lenOf k) :: b) s :=
  hk ▸ hb ▸ rfl

/-! ### The significant bytes, one by one (R27) -/

theorem toList_take_eq_ofFn (v : Vector Byte 18) {n : Nat} (h : n ≤ 18) :
    v.toList.take n = List.ofFn fun i : Fin n => v[i.val] :=
  List.ext_getElem (by simpa using h) (by simp)

section
variable {block : Block}

theorem significant_none (h : block.rk = .none) : significant block = [] := by
  rw [significant, h]
  rfl

theorem significant_general (h : block.rk = .general) :
    significant block = [block.rb[0], block.rb[1], block.rb[2], block.rb[3]] := by
  rw [significant, h]
  exact toList_take_eq_ofFn block.rb (by decide)

theorem significant_extended (h : block.rk = .extended) : significant block =
    [block.rb[0], block.rb[1], block.rb[2], block.rb[3], block.rb[4], block.rb[5], block.rb[6]] := by
  rw [significant, h]
  exact toList_take_eq_ofFn block.rb (by decide)

theorem significant_query (h : block.rk = .query) : significant block = block.rb.toList := by
  rw [significant, h]
  exact List.take_of_length_le (by simp [lenOf])

end

/-! ### The verdict (R134) -/

/-- The verdict on the response held, for an originating checksum. -/
def verdict (block : Block) (occ : Byte) : Bool := checksumIsValid block.rk (significant block) occ

theorem exec_rval_eq_verdict (occ : Byte) (s : State) :
    exec (.rval occ) s = complete [verdictByte (verdict s.toBlock occ)] s :=
  exec_rval occ s

theorem verdictByte_eq_one_iff {valid : Bool} : verdictByte valid = 0x01 ↔ valid = true := by
  cases valid <;> decide

theorem verdictByte_eq_zero_or_one (valid : Bool) : verdictByte valid = 0x00 ∨ verdictByte valid = 0x01 := by
  cases valid
  · exact .inl rfl
  · exact .inr rfl

section
variable {block : Block}

theorem verdict_none (h : block.rk = .none) (occ : Byte) : verdict block occ = true := by
  rw [verdict, h]
  rfl

theorem verdict_general_iff (h : block.rk = .general) (occ : Byte) :
    verdict block occ = true ↔ block.rb[3] = checksum ([block.rb[2]] ++ [occ]) := by
  rw [verdict, significant_general h, h, checksum_perm (List.perm_append_comm (l₁ := [block.rb[2]]))]
  simp [checksumIsValid, slice]

theorem verdict_extended_iff (h : block.rk = .extended) (occ : Byte) : verdict block occ = true ↔
    block.rb[6] = checksum [block.rb[1], block.rb[2], block.rb[3], block.rb[4], block.rb[5]] := by
  rw [verdict, significant_extended h, h]
  simp [checksumIsValid, slice]

theorem verdict_query_iff (h : block.rk = .query) (occ : Byte) : verdict block occ = true ↔
    block.rb[17] = checksum ((block.rb.toList.drop 1).take 16 ++ [occ]) := by
  rw [verdict, significant_query h, h, checksum_concat]
  simp [checksumIsValid, slice]

end

/-- A checksum byte matches where the integer sum modulo 256 is its value (R100). -/
theorem eq_checksum_iff {x : Byte} {b : List Byte} : x = checksum b ↔ byteSum b % 256 = x.toNat := by
  rw [checksum_eq_ofNat_byteSum, eq_comm, BitVec.toNat_eq, BitVec.toNat_ofNat]

/-- The one byte that completes a sum to a given checksum (R138). -/
theorem eq_checksum_concat_iff {x y : Byte} {b : List Byte} :
    x = checksum (b ++ [y]) ↔ y = x - checksum b := by
  rw [checksum_concat, eq_sub_iff_add_eq', eq_comm]

/-- Of General and Query the originating checksum is the last summand. -/
theorem exists_verdict_iff_eq {block : Block} (h : block.rk = .general ∨ block.rk = .query) :
    ∃ good, ∀ occ, verdict block occ = true ↔ occ = good := by
  obtain hk | hk := h
  · exact ⟨_, fun occ => (verdict_general_iff hk occ).trans eq_checksum_concat_iff⟩
  · exact ⟨_, fun occ => (verdict_query_iff hk occ).trans eq_checksum_concat_iff⟩

theorem verdict_ignores_occ {block : Block} (h : block.rk = .none ∨ block.rk = .extended) (occ occ' : Byte) :
    verdict block occ = verdict block occ' := by
  obtain hk | hk := h
  · rw [verdict_none hk, verdict_none hk]
  · rw [Bool.eq_iff_iff, verdict_extended_iff hk, verdict_extended_iff hk]

theorem length_frameNew (a c1 c2 d1 d2 : Byte) : (frameNew a c1 c2 d1 d2).length = lenOf .extended := rfl

/-- A frame holds, at offset 6, the checksum of the five bytes an Extended verdict sums (R110, R139). -/
theorem checksumIsValid_frameNew (a c1 c2 d1 d2 occ : Byte) :
    checksumIsValid .extended (frameNew a c1 c2 d1 d2) occ = true :=
  beq_self_eq_true (some (checksum [a, c1, c2, d1, d2]))

/-! ### The response held stays until the next RCLS (R61, R133) -/

/-- Both blocks hold the same response. -/
def sameResponse (s t : Block) : Prop := t.rk = s.rk ∧ significant t = significant s

theorem sameResponse_performRequest {nMax : Nat} {q : List Byte} (hq : q.head? ≠ some 0x20) {s t : State}
    (h : performRequest nMax q s = .next t) : sameResponse s.toBlock t.toBlock := by
  cases hd : decodeWith nMax q with
  | ok i =>
    rw [performRequest_of_ok hd] at h
    obtain ⟨u, r, hu, rfl⟩ := exec_eq_next h
    obtain ⟨hk, hb, -⟩ | ⟨b, rfl⟩ := hu.response
    · exact ⟨hk, by rw [significant, significant, respond_rb, respond_rk, hk, hb]⟩
    · exact absurd (congrArg List.head? (encode_of_decodeWith hd).symm) hq
  | error e =>
    rw [performRequest_of_error hd, raise_eq_next_iff] at h
    subst h
    exact ⟨rfl, rfl⟩

theorem run_keeps_response {reqs : List (List Byte)} (hq : ∀ q ∈ reqs, q.head? ≠ some 0x20) {s : State}
    {rest : List Input} (h : s.inputs = reqs.map .request ++ rest) :
    ∃ t, run reqs.length s = .next t ∧ t.inputs = rest ∧ sameResponse s.toBlock t.toBlock := by
  induction reqs generalizing s with
  | nil => exact ⟨s, run_zero s, h, rfl, rfl⟩
  | cons q reqs ih =>
    rw [List.forall_mem_cons] at hq
    obtain ⟨hq, hreqs⟩ := hq
    obtain ⟨u, r, hstep, -, hu⟩ := step_of_request h
    obtain ⟨t, hrun, ht, hk, hb⟩ := ih hreqs hu
    obtain ⟨hk', hb'⟩ := sameResponse_performRequest hq ((stepWith_of_request h).symm.trans hstep)
    exact ⟨t, (run_succ hstep).trans hrun, ht, hk.trans hk', hb.trans hb'⟩

theorem wf_rcls_of_length {b : List Byte} {k : Kind} (h : b.length = lenOf k) :
    (Instr.rcls b).wf Config.nMax = true := by
  have hle : b.length ≤ 255 := h.trans_le ((lenOf_le k).trans (by decide))
  simp [Instr.wf, sequenceFits, Config.nMax, hle]

/-! ### The obligations of the family -/

/-- Settles O34: each row of the table is a kind with its length and code. -/
theorem rclsClassifiesByLength : Obligations.RclsClassifiesByLength := by
  refine fun b s _ => ⟨encode_eq_cons _, fun n k code hrow hn => ?_, fun h => ?_⟩
  · obtain ⟨k', -, hk'⟩ := List.mem_map.mp (show (n, k, code) ∈
      [Kind.none, .general, .extended, .query].map fun k => (lenOf k, k, kindCode k) from hrow)
    cases hk'
    exact ⟨_, exec_rcls_of_length hn s, rfl, significant_loadResponse k b s hn, rfl, rfl, rfl, rfl⟩
  · exact exec_rcls_of_noKind (kindOfLength_eq_none_iff.mpr h) s

/-- Settles O37, kind by kind: the checksum compared is the integer sum as a byte. -/
theorem rvalReturnsTheVerdictOfTheKind : Obligations.RvalReturnsTheVerdictOfTheKind := by
  refine fun occ s => ⟨encode_eq_cons _, _, exec_rval_eq_verdict occ s, verdictByte_eq_zero_or_one _,
    fun hk => ?_, fun hk => ?_, fun hk => ?_, fun hk => ?_⟩ <;> rw [verdictByte_eq_one_iff]
  · exact verdict_none hk occ
  · rw [verdict_general_iff hk, eq_checksum_iff]
    simp [Nat.add_comm]
  · rw [verdict_extended_iff hk, eq_checksum_iff]
    simp [Nat.add_assoc]
  · rw [verdict_query_iff hk, eq_checksum_iff]
    simp

/-- Settles O38: RVAL returns the verdict, which one operand completes, or none enters. -/
theorem oneOriginatingChecksumValidates : Obligations.OneOriginatingChecksumValidates := by
  refine fun s => ⟨fun hk => ?_, fun hk occ occ' => ?_⟩
  · obtain ⟨good, hgood⟩ := exists_verdict_iff_eq hk
    refine ⟨good, fun occ => ?_⟩
    rw [exec_rval_eq_verdict, verdictByte]
    simp only [hgood]
    rfl
  · rw [exec_rval_eq_verdict, exec_rval_eq_verdict, verdict_ignores_occ hk occ occ']

/-- Settles O40: FNEW and DFIN return `frameNew`, whose seven bytes RCLS loads as they are. -/
theorem formattedFramesValidateWhenLoopedBack : Obligations.FormattedFramesValidateWhenLoopedBack := by
  intro a c1 c2 d1 d2 occ s
  let f := frameNew a c1 c2 d1 d2
  let t := respond (.ok [kindCode .extended]) (loadResponse .extended f s)
  have hlen := length_frameNew a c1 c2 d1 d2
  have hvalid : verdict t.toBlock occ = true :=
    (congrArg (checksumIsValid .extended · occ) (significant_loadResponse .extended f s hlen)).trans
      (checksumIsValid_frameNew a c1 c2 d1 d2 occ)
  refine ⟨f, t, exec_fnew a c1 c2 d1 d2 s, exec_rcls_of_length hlen s, rfl, rfl, ?_, fun hs hdraft => ?_⟩
  · rw [exec_rval_eq_verdict, hvalid]
    rfl
  · rw [exec_dfin hs, hdraft]
    rfl

/-- Settles O41: RCLS loads the response, the requests after it keep it, and RBYTES returns it. -/
theorem loadedResponseIsReturnedUntilReplaced : Obligations.LoadedResponseIsReturnedUntilReplaced := by
  intro b reqs s rest hb hq hs
  obtain ⟨k, hk⟩ := exists_lenOf_of_mem hb
  let u := respond (.ok [kindCode k]) (loadResponse k b (takeInput (reqs.map .request ++ .request [0x23] :: rest) s))
  have hload : step s = .next u :=
    (step_of_issued (is := []) (wf_rcls_of_length hk) hs).trans (exec_rcls_of_length hk _)
  obtain ⟨t, hrun, ht, htk, htb⟩ := run_keeps_response hq (s := u) rfl
  have hheld : significant t.toBlock = b := htb.trans (significant_loadResponse k b _ hk)
  have hread : step t = .next (respond (.ok (lengthByte (lenOf k) :: b)) (takeInput rest t)) :=
    (step_of_issued (i := .rbytes) (is := []) rfl ht).trans (exec_rbytes_of_held htk hheld)
  refine ⟨respond (.ok (lengthByte (lenOf k) :: b)) (takeInput rest t), ?_, rfl, ?_⟩
  · calc run (reqs.length + 2) s
      _ = run (reqs.length + 1) u := run_succ hload
      _ = run 1 t := run_add hrun
      _ = _ := (run_succ hread).trans (run_zero _)
  · simp [hk, lengthByte]

/-- Settles O33: each kind's length has that kind, and no other length has one. -/
theorem kindOfLengthInvertsLength : Obligations.KindOfLengthInvertsLength :=
  ⟨⟨rfl, rfl, rfl, rfl⟩, fun _ _ => kindOfLength_eq_some_iff⟩

/-- Settles O35: RKIND completes with the code of the kind held, which an empty RCLS makes None. -/
theorem rkindReturnsTheKind : Obligations.RkindReturnsTheKind :=
  ⟨fun _ => ⟨encode_eq_cons _, exec_rkind_of_kind, exec_rkind_of_kind, exec_rkind_of_kind, exec_rkind_of_kind⟩, rfl,
    fun s => ⟨_, exec_rcls_of_length (k := .none) rfl s, exec_rkind_of_kind rfl⟩⟩

/-- Settles O36: RBYTES completes with the significant bytes, which a load makes the bytes loaded. -/
theorem rbytesReturnsTheSignificantBytes : Obligations.RbytesReturnsTheSignificantBytes := by
  refine fun s => ⟨encode_eq_cons _, fun hk => exec_rbytes_of_held hk (significant_none hk),
    fun hk => exec_rbytes_of_held hk (significant_general hk),
    fun hk => exec_rbytes_of_held hk (significant_extended hk),
    fun hk => exec_rbytes_of_held hk (significant_query hk), fun b hb => ?_⟩
  obtain ⟨k, hk⟩ := exists_lenOf_of_mem hb
  refine ⟨_, exec_rcls_of_length hk s, ?_⟩
  rw [hk]
  exact exec_rbytes_of_held rfl (significant_loadResponse k b s hk)

end Sys2Proof.Machine
end

/-! The family 45_host_command_layer: speeds are clamped and rounded, each builder method is one draft operation, each
extended command one FNEW or a rejection, and the host sends, receives and keeps what it owes the validator
(spec/45_host_command_layer.md R150 to R176). -/

section
namespace Sys2Proof.Machine.HostLayer

/-! ### Speed quantisation (R160 to R162) -/

/-- The rounding of R161 is Mathlib's `round`: both are the floor of `x + 1/2`. -/
theorem roundHalfUp_eq_round (x : Rat) : roundHalfUp x = round x := (round_eq x).symm

/-- The rounded value is a nearest integer, the upper one at a tie (D22). -/
theorem roundHalfUp_nearest (x : Rat) : (roundHalfUp x : Rat) - 1 / 2 ≤ x ∧ x < (roundHalfUp x : Rat) + 1 / 2 := by
  have hle := Int.floor_le (x + 1 / 2)
  have hlt := Int.lt_floor_add_one (x + 1 / 2)
  rw [roundHalfUp_eq_round, round_eq]
  constructor <;> linarith

theorem clampUnit_bounds (q : Rat) : 0 ≤ clampUnit q ∧ clampUnit q ≤ 1 :=
  ⟨le_min (le_max_right q 0) zero_le_one, min_le_right _ 1⟩

theorem clampUnit_of_nonpos {q : Rat} (h : q ≤ 0) : clampUnit q = 0 := by
  rw [clampUnit, max_eq_right h, min_eq_left zero_le_one]

theorem clampUnit_of_one_le {q : Rat} (h : 1 ≤ q) : clampUnit q = 1 :=
  min_eq_right (h.trans (le_max_left q 0))

theorem clampUnit_of_mem {q : Rat} (h₀ : 0 ≤ q) (h₁ : q ≤ 1) : clampUnit q = q := by
  rw [clampUnit, max_eq_left h₀, min_eq_left h₁]

/-- The byte of a fraction is the rounded number itself, which the clamp holds between 0 and 63. -/
theorem speedToByte_rational (q : Rat) : ∃ v : Byte, speedToByte (.range (.rational q)) = some v ∧ v.toNat ≤ 63 ∧
    (v.toNat : Int) = roundHalfUp (63 * clampUnit q) := by
  obtain ⟨hclamp₀, hclamp₁⟩ := clampUnit_bounds q
  have hround : 0 ≤ roundHalfUp (63 * clampUnit q) ∧ roundHalfUp (63 * clampUnit q) ≤ 63 := by
    obtain ⟨hle, hlt⟩ := roundHalfUp_nearest (63 * clampUnit q)
    constructor
    · have : (-1 : Rat) < roundHalfUp (63 * clampUnit q) := by linarith
      exact_mod_cast this
    · have : (roundHalfUp (63 * clampUnit q) : Rat) < 64 := by linarith
      exact Int.lt_add_one_iff.mp (by exact_mod_cast this)
  refine ⟨_, rfl, ?_⟩
  rw [BitVec.toNat_ofInt]
  omega

/-! ### Builder methods (R153 to R157) -/

/-- Every expansion is an operation R123 allows between DNEW and DFIN. -/
theorem isDraftEdit_of_expand {p : HostParams} {m : Method} {i : Instr} (h : m.expand p = some i) :
    isDraftEdit i = true := by
  cases m with
  | pan speed | tilt speed =>
    obtain ⟨v, -, rfl⟩ := Option.map_eq_some_iff.mp h
    rfl
  | direction | up | down | left | right | stop | cameraOn | cameraOff | focusFar | focusNear | openIris | closeIris
  | zoomIn | zoomOut | autoScan | manualScan =>
    cases h
    rfl

/-- Only `pan` and `tilt` quantise a speed, and not-a-number is the one speed without a byte. -/
theorem expand_eq_none_iff {p : HostParams} {m : Method} :
    m.expand p = none ↔ m = .pan (.range .notANumber) ∨ m = .tilt (.range .notANumber) := by
  cases m with
  | pan speed | tilt speed => simp [Method.expand, speedToByte_eq_none]
  | direction | up | down | left | right | stop | cameraOn | cameraOff | focusFar | focusNear | openIris | closeIris
  | zoomIn | zoomOut | autoScan | manualScan => simp [Method.expand]

theorem expand_pan {p : HostParams} {speed : Speed} {v : Byte} (h : speedToByte speed = some v) :
    Method.expand p (.pan speed) = some (.dset1 v) := congrArg (Option.map Instr.dset1) h

theorem expand_tilt {p : HostParams} {speed : Speed} {v : Byte} (h : speedToByte speed = some v) :
    Method.expand p (.tilt speed) = some (.dset2 v) := congrArg (Option.map Instr.dset2) h

/-- The sum the source fixes for SENSE and CAMERA_ON_OFF (R73). -/
theorem sense_or_cameraOnOff {b : FlagBits} (h : b.wf = true) : b.sense ||| b.cameraOnOff = 0x88 := by
  simp only [FlagBits.wf, Bool.and_eq_true, beq_iff_eq] at h
  exact h.left

theorem expand_cameraOn {p : HostParams} (h : p.bits.wf = true) : Method.expand p .cameraOn = some (.dor1 0x88) :=
  congrArg (some <| Instr.dor1 ·) (sense_or_cameraOnOff h)

/-- CAMERA_ON_OFF is among the bits of 0x88: a second OR of it changes nothing (R158). -/
theorem or_cameraOnOff {b : FlagBits} (h : b.wf = true) : 0x88 ||| b.cameraOnOff = 0x88 := by
  rw [← sense_or_cameraOnOff h, BitVec.or_assoc, BitVec.or_self]

/-- Each of the ten named bit methods ORs its entry of `methodBits` into cmd1 or cmd2 (R157). -/
theorem expand_of_bitMethod (p : HostParams) {m : Method}
    (hm : m ∈ ([.cameraOn, .cameraOff, .focusFar, .focusNear, .openIris, .closeIris, .zoomIn, .zoomOut, .autoScan,
      .manualScan] : List Method)) :
    ∃ b ∈ p.methodBits, m.expand p = some (.dor1 b) ∨ m.expand p = some (.dor2 b) := by
  have hbits : List.Forall₂ (fun m b => Method.expand p m = some (.dor1 b) ∨ Method.expand p m = some (.dor2 b))
      [.cameraOn, .cameraOff, .focusFar, .focusNear, .openIris, .closeIris, .zoomIn, .zoomOut, .autoScan,
        .manualScan] p.methodBits := by
    simp [HostParams.methodBits, Method.expand]
  obtain ⟨k, hk, rfl⟩ := List.getElem_of_mem hm
  exact ⟨_, List.getElem_mem (hbits.length_eq ▸ hk), hbits.get hk _⟩

/-! ### A builder's chain as the block runs it (R124, R158) -/

/-- DNEW, edits that leave only cmd1 set, and DFIN end in the frame of that cmd1. -/
theorem run_of_cmd1Chain {a m : Byte} {edits : List Instr} {s : State} {rest : List Input}
    (he : ∀ i ∈ edits, isDraftEdit i = true)
    (hm : edits.foldl Draft.edit (Draft.new a) = { Draft.new a with dc1 := m })
    (h : s.inputs = issue (.dnew a :: (edits ++ [.dfin])) ++ rest) :
    ∃ t, run (edits.length + 2) s = .next t ∧ t.results.getLast? = some (0x00 :: frameNew a m 0 0 0) := by
  obtain ⟨t, hrun, -, -, hresults⟩ := draftHistoryFinalizesToTheFoldedFrame a edits s rest he h
  refine ⟨t, hrun, ?_⟩
  rw [hresults, List.getLast?_concat, foldedDraft_eq_foldl a he, hm, Draft.new_eq]

/-! ### Extended commands (R163 to R165) -/

theorem expand_of_payload_error {p : HostParams} {c : ExtCommand} {e : Cause} (h : c.payload p = .error e) (a : Byte) :
    c.expand p a = .error e := by
  simp only [ExtCommand.expand, h]

theorem writeCharPayload_of_nonAscii {p : HostParams} {column : Byte} {ch : Char} (h : 127 < ch.toNat) :
    writeCharPayload p column ch = .error .nonAscii := if_pos h

/-- An accepted character is one of the two data bytes, at the table's place (R165). -/
theorem writeCharPayload_of_ascii (p : HostParams) (column : Byte) {ch : Char} (h : ch.toNat ≤ 127) :
    ∃ q, writeCharPayload p column ch = .ok q ∧ (q.dataHi.toNat = ch.toNat ∨ q.dataLo.toNat = ch.toNat) := by
  refine ⟨_, if_neg (Nat.not_lt.mpr h), ?_⟩
  have hbyte : (BitVec.ofNat 8 ch.toNat).toNat = ch.toNat := by
    rw [BitVec.toNat_ofNat]
    omega
  obtain hplace | hplace := placeBytes_cases p.table.screen.place (BitVec.ofNat 8 ch.toNat)
    (p.table.screen.other.byte column)
  · exact .inl ((congrArg (·.1.toNat) hplace).trans hbyte)
  · exact .inr ((congrArg (·.2.toNat) hplace).trans hbyte)

/-- A preset payload is refused for id 0 alone (R164). -/
theorem presetPayload_cases (p : HostParams) (row : PresetRow) (id : Byte) :
    (∃ q, presetPayload p row id = .ok q) ∨ (presetPayload p row id = .error .presetZero ∧ id = 0) := by
  by_cases h : id = 0
  · exact .inr ⟨h ▸ presetPayload_zero p row, h⟩
  · exact .inl ⟨_, presetPayload_of_ne h⟩

/-- A payload, or one of the two rejections: only the preset id and the character are looked at. -/
theorem payload_cases (p : HostParams) (c : ExtCommand) :
    (∃ q, c.payload p = .ok q) ∨
    (c.payload p = .error .presetZero ∧ (c = .setPreset 0 ∨ c = .clearPreset 0 ∨ c = .goToPreset 0)) ∨
    (c.payload p = .error .nonAscii ∧ ∃ column ch, c = .writeCharToScreen column ch ∧ 127 < ch.toNat) := by
  cases c with
  | setPreset id =>
    exact (presetPayload_cases p .set id).imp_right fun ⟨he, hid⟩ => .inl ⟨he, .inl (congrArg _ hid)⟩
  | clearPreset id =>
    exact (presetPayload_cases p .clear id).imp_right fun ⟨he, hid⟩ => .inl ⟨he, .inr (.inl (congrArg _ hid))⟩
  | goToPreset id =>
    exact (presetPayload_cases p .goTo id).imp_right fun ⟨he, hid⟩ => .inl ⟨he, .inr (.inr (congrArg _ hid))⟩
  | writeCharToScreen column ch =>
    obtain h | h := Nat.lt_or_ge 127 ch.toNat
    · exact .inr (.inr ⟨writeCharPayload_of_nonAscii h, column, ch, rfl, h⟩)
    · obtain ⟨q, hq, -⟩ := writeCharPayload_of_ascii p column h
      exact .inl ⟨q, hq⟩
  | flip180 => exact .inl ⟨_, presetPayload_of_ne (row := .goTo) (id := 0x21) (by decide)⟩
  | goToZeroPan => exact .inl ⟨_, presetPayload_of_ne (row := .goTo) (id := 0x22) (by decide)⟩
  | setAuxiliary | clearAuxiliary | remoteReset | setZoneStart | setZoneEnd | clearScreen | alarmAcknowledge
  | zoneScanOn | zoneScanOff | setPatternStart | setPatternStop | runPattern | setZoomSpeed | setFocusSpeed
  | resetToDefaults | autoFocus | autoIris | agc | backlight | autoWhiteBalance | enablePhaseDelay | setShutterSpeed
  | adjustPhaseDelay | adjustWhiteBalanceRB | adjustWhiteBalanceMG | adjustGain | adjustIrisLevel | adjustIrisPeak
  | query => exact .inl ⟨_, rfl⟩

/-! ### Transport and bookkeeping (R172 to R176) -/

section
variable {σ ε : Type} {t : Transport σ ε} {n reads : Nat} {ch : σ}

theorem finishSend_of_noFlush (h : t.sendFlushes = false) (ch : σ) : t.finishSend ch = .ok ch := by
  simp [Transport.finishSend, h]

theorem finishSend_of_flush (h : t.sendFlushes = true) (ch : σ) : t.finishSend ch = t.flush ch := by
  simp [Transport.finishSend, h]

/-- Collecting exactly the length asked for is what `receive` hands over. -/
theorem receive_of_collect {b : List Byte} {ch' : σ} (h : t.collect n reads [] ch = .ok (b, ch')) (hb : b.length = n) :
    t.receive n reads ch = .ok (.complete (.rcls b), ch') := by
  simp [Transport.receive, h, hb]

theorem receive_of_collect_error {e : ε} (h : t.collect n reads [] ch = .error e) :
    t.receive n reads ch = .error (.io e) := by
  simp only [Transport.receive, h]

/-- A read that succeeds while bytes are missing: collecting goes on with its bytes. -/
theorem collect_of_read {got b : List Byte} {ch' : σ} (h : got.length < n)
    (hread : t.read (n - got.length) ch = .ok (b, ch')) :
    t.collect n (reads + 1) got ch = t.collect n reads (got ++ b) ch' := by
  rw [collect_of_missing h, hread]

/-- A response that comes in two reads (R176). -/
theorem collect_of_two_reads {b b' : List Byte} {ch' ch'' : σ} (hread : t.read n ch = .ok (b, ch')) (hlt : b.length < n)
    (hread' : t.read (n - b.length) ch' = .ok (b', ch'')) (hlen : b.length + b'.length = n) :
    t.collect n (reads + 2) [] ch = .ok (b ++ b', ch'') := by
  rw [collect_of_read (Nat.zero_lt_of_lt hlt) hread, List.nil_append, collect_of_read hlt hread']
  exact collect_of_enough (by simp [hlen])

theorem settle_of_verdict {r : List Byte} (hr : r = [0x00, 0x00] ∨ r = [0x00, 0x01]) (k : Nat) (x : Exchanges σ) :
    x.settle k r = { x with kept := x.kept.eraseIdx k } := if_pos hr.symm

theorem settle_of_noVerdict {r : List Byte} (h₀ : r ≠ [0x00, 0x00]) (h₁ : r ≠ [0x00, 0x01]) (k : Nat)
    (x : Exchanges σ) : x.settle k r = x := if_neg (not_or.mpr ⟨h₁, h₀⟩)

end

/-! ### The obligations of the family -/

/-- Settles O49: the clamp is the identity on [0, 1] and constant outside, and the byte is the nearest integer. -/
theorem speedIsClampedAndRounded : Obligations.SpeedIsClampedAndRounded := by
  refine ⟨fun q => ?_, rfl, rfl⟩
  obtain ⟨v, hv, hle, hround⟩ := speedToByte_rational q
  refine ⟨v, hv, hle, fun h => ?_, fun h => ?_, fun h₀ h₁ => ?_⟩
  · rw [clampUnit_of_nonpos h, roundHalfUp_eq_round] at hround
    simpa using hround
  · rw [clampUnit_of_one_le h, roundHalfUp_eq_round, mul_one, round_ofNat] at hround
    exact_mod_cast hround
  · have hcast : (v.toNat : Rat) = roundHalfUp (63 * q) := by
      rw [clampUnit_of_mem h₀ h₁] at hround
      exact_mod_cast hround
    rw [hcast]
    exact roundHalfUp_nearest _

/-- Settles O52: a payload expands to its FNEW, a rejection stays one. -/
theorem extendedCommandsExpandToOneFnew : Obligations.ExtendedCommandsExpandToOneFnew := by
  intro p a c
  obtain ⟨q, hq⟩ | ⟨he, hc⟩ | ⟨he, hc⟩ := payload_cases p c
  · exact .inl ⟨q, hq, expand_of_payload hq a⟩
  · exact .inr (.inl ⟨expand_of_payload_error he a, hc⟩)
  · exact .inr (.inr ⟨expand_of_payload_error he a, hc⟩)

/-- Settles O53: each expansion is its row of R153 to R157, and the sourced parameters bound the bits of the ten. -/
theorem builderMethodsExpandToDraftOperations : Obligations.BuilderMethodsExpandToDraftOperations := by
  refine fun p => ⟨fun _ => rfl, ⟨rfl, rfl, rfl, rfl⟩, fun _ _ h => ⟨expand_pan h, expand_tilt h⟩, rfl, expand_cameraOn,
    rfl, rfl, rfl, rfl, rfl, ⟨_, _, rfl, rfl⟩, ⟨_, _, rfl, rfl⟩, fun ⟨_, hbits, _⟩ m hm => ?_,
    fun _ _ => isDraftEdit_of_expand, fun _ => expand_eq_none_iff, expand_tilt rfl⟩
  obtain ⟨b, hb, hexpand⟩ := expand_of_bitMethod p hm
  exact ⟨b, List.all_eq_true.mp hbits b hb, hexpand⟩

/-- Settles O54: CAMERA_ON_OFF ORed into 0x88 changes nothing, and ORed into the cleared field stands alone. -/
theorem cameraOffDoesNotUndoCameraOn : Obligations.CameraOffDoesNotUndoCameraOn := by
  intro p a on off s rest hwf hon hoff
  obtain rfl : Instr.dor1 0x88 = on := Option.some.inj ((expand_cameraOn hwf).symm.trans hon)
  obtain rfl : Instr.dor1 p.bits.cameraOnOff = off := Option.some.inj hoff
  refine ⟨run_of_cmd1Chain (edits := [.dor1 0x88]) (by decide) ?_,
    run_of_cmd1Chain (edits := [.dor1 0x88, .dor1 p.bits.cameraOnOff]) (by simp [isDraftEdit, Instr.opcode]) ?_,
    run_of_cmd1Chain (edits := [.dor1 0x88, .drstf 1, .dor1 p.bits.cameraOnOff])
      (by simp [isDraftEdit, Instr.opcode, isDrstfWithSelector, selectorAllowed]) ?_⟩
  · exact congrArg ({ Draft.new a with dc1 := · }) BitVec.zero_or
  · have hor : 0 ||| 0x88 ||| p.bits.cameraOnOff = 0x88 :=
      (congrArg (· ||| p.bits.cameraOnOff) BitVec.zero_or).trans (or_cameraOnOff hwf)
    exact congrArg ({ Draft.new a with dc1 := · }) hor
  · exact congrArg ({ Draft.new a with dc1 := · }) BitVec.zero_or

/-- Settles O50: id 0 has no payload, any other is its dataLo; flip-180 and go-to-zero-pan are two ids of go-to. -/
theorem presetZeroIsRejected : Obligations.PresetZeroIsRejected := by
  refine fun p a => ⟨rfl, rfl, rfl, fun id hid => ?_, rfl, rfl⟩
  simp only [List.forall_mem_cons]
  exact ⟨⟨_, _, _, expand_of_payload (c := .setPreset id) (presetPayload_of_ne hid) a⟩,
    ⟨_, _, _, expand_of_payload (c := .clearPreset id) (presetPayload_of_ne hid) a⟩,
    ⟨_, _, _, expand_of_payload (c := .goToPreset id) (presetPayload_of_ne hid) a⟩, List.forall_mem_nil _⟩

/-- Settles O51: the two cases of the character's payload. -/
theorem nonAsciiCharacterIsRejected : Obligations.NonAsciiCharacterIsRejected := by
  refine fun p a column ch => ⟨fun h => ?_, fun h => ?_⟩
  · exact expand_of_payload_error (c := .writeCharToScreen column ch) (writeCharPayload_of_nonAscii h) a
  · obtain ⟨q, hq, hdata⟩ := writeCharPayload_of_ascii p column h
    exact ⟨_, _, _, _, expand_of_payload (c := .writeCharToScreen column ch) hq a, hdata⟩

/-- Settles O56: a write error ends `send`, and after a full write only the flush is left. -/
theorem sendWritesTheFrameAndPropagatesIoErrors : Obligations.SendWritesTheFrameAndPropagatesIoErrors := by
  refine fun σ ε t frame ch => ⟨fun e => send_of_error, fun ch' hwrite => ?_⟩
  rw [send_of_full hwrite]
  refine ⟨fun hf => ?_, fun hf => ⟨fun ch'' hflush => ?_, fun e hflush => ?_⟩⟩
  · rw [finishSend_of_noFlush hf]
    rfl
  · rw [finishSend_of_flush hf, hflush]
    rfl
  · rw [finishSend_of_flush hf, hflush]
    rfl

/-- Settles O57: the byte is kept last, so it is at the place past those kept before, and goes from there alone. -/
theorem hostKeepsTheOriginatingChecksum : Obligations.HostKeepsTheOriginatingChecksum := by
  intro σ ε t frame occ x x' hocc hsend
  have hkept : x'.kept = x.kept ++ [occ] := by
    rw [sendCommand_kept hsend, originatingChecksum, hocc, Option.toList_some]
  have hplace : x'.validation x.kept.length = some (.rval occ) := by simp [Exchanges.validation, hkept]
  refine ⟨hkept, hplace, fun next x'' hnext => ?_, fun r hr => ?_, fun r k h₀ h₁ => settle_of_noVerdict h₀ h₁ k x'⟩
  · rw [sendCommand_validation (by simp [hkept]) hnext, hplace]
  · simp [settle_of_verdict hr, hkept, List.eraseIdx_append_of_length_le]

/-- Settles O58: `receive` hands over what was collected when its length is `n`; what is collected follows the reads. -/
theorem receiveHandsOverCompleteResponses : Obligations.ReceiveHandsOverCompleteResponses := by
  refine fun σ ε t n reads ch => ⟨fun r ch' h => ?_, fun b b' ch' ch'' hread hlt hread' hlen hreads => ?_,
    fun e hread hn hreads => ?_, receive_of_collect (collect_of_enough (Nat.zero_le _)) rfl⟩
  · obtain ⟨b, _, hb, heq⟩ | ⟨b, _, hb, heq⟩ | ⟨e, heq⟩ := receive_cases t n reads ch
    · cases heq.symm.trans h
      exact .inl ⟨b, hb, rfl⟩
    · cases heq.symm.trans h
      exact .inr ⟨b, hb, rfl⟩
    · cases heq.symm.trans h
  · obtain ⟨k, rfl⟩ := Nat.exists_eq_add_of_le' hreads
    exact receive_of_collect (collect_of_two_reads hread hlt hread' hlen) (by simp [hlen])
  · obtain ⟨k, rfl⟩ := Nat.exists_eq_succ_of_ne_zero hreads.ne'
    refine receive_of_collect_error ?_
    rw [collect_of_missing hn, List.length_nil, Nat.sub_zero, hread]

end Sys2Proof.Machine.HostLayer
end

/-! The family 60_exceptions: the failures an operation can raise, which operation raises which and when, and that a
failure is a result and nothing else (spec/60_exceptions.md R193 to R197). -/

section
namespace Sys2Proof.Machine

/-! ### Which failure an operation raises (R193 to R195) -/

/-- `Raises s i f`: from `s` the operation `i` fails with `f`. -/
inductive Raises (s : State) : Instr → Failure → Prop where
  | responseLength {b : List Byte} (h : b.length ∉ responseLengths) :
      Raises s (.rcls b) (.invalidValue (.responseLength (lengthByte b.length)))
  | frameLength {b : List Byte} (h : b.length ≠ frameLen) :
      Raises s (.fconv b) (.invalidValue (.frameLength (lengthByte b.length)))
  | badSelector {f : Byte} (h : selectorAllowed f = false) : Raises s (.drstf f) .illegalOp
  | noDraft {i : Instr} (hi : needsDraft i = true) (hs : s.dcre = false) : Raises s i .noDraft

/-- The operation succeeds, and returns its result on top of the results of `s`. -/
def completes (s : State) (i : Instr) : Prop :=
  ∃ payload u, exec i s = complete payload u ∧ u.results = s.results

section
variable {s t : State} {i : Instr} {f : Failure} {r : List Byte}

theorem Raises.exec_eq (h : Raises s i f) : exec i s = raise f s := by
  cases h with
  | responseLength hb => exact exec_rcls_of_noKind (kindOfLength_eq_none_iff.mpr hb) s
  | frameLength hb => exact exec_fconv_of_otherLength hb s
  | badSelector hf => exact exec_drstf_of_badSelector hf s
  | noDraft hi hs => exact exec_of_needsDraft hi hs

/-- The block's failures as bytes: none of the host layer's causes is among them (R192). -/
theorem Raises.form (h : Raises s i f) (hr : r = (Result.raised f).bytes) :
    r = [0x02] ∨ r = [0x03] ∨ (∃ n, r = [0x01, 0x01, n]) ∨ ∃ n, r = [0x01, 0x02, n, 0x07] := by
  subst hr
  cases h with
  | responseLength _ => exact .inr (.inr (.inl ⟨_, rfl⟩))
  | frameLength _ => exact .inr (.inr (.inr ⟨_, rfl⟩))
  | badSelector _ => exact .inl rfl
  | noDraft _ _ => exact .inr (.inl rfl)

theorem completes_of_needsDraft (hi : needsDraft i = true) (hs : s.dcre = true) : completes s i := by
  cases i with
  | dor1 | dor2 | dset1 | dset2 | dstop => exact ⟨_, _, exec_edit rfl hs, rfl⟩
  | drstf f => exact ⟨_, _, exec_edit (i := .drstf f) hi hs, rfl⟩
  | dfin => exact ⟨_, _, exec_dfin hs, rfl⟩
  | csum | fnew | fconv | dnew | rcls | rval | rkind | rbytes => cases hi

/-- No failure is left out of `Raises`. -/
theorem completes_or_raises (s : State) (i : Instr) : completes s i ∨ ∃ f, Raises s i f := by
  cases hn : needsDraft i with
  | true =>
    cases hs : s.dcre with
    | true => exact .inl (completes_of_needsDraft hn hs)
    | false => exact .inr ⟨_, .noDraft hn hs⟩
  | false =>
    cases i with
    | csum | fnew | dnew | rval | rkind | rbytes => exact .inl ⟨_, _, rfl, rfl⟩
    | fconv b =>
      by_cases hb : b.length = frameLen
      · exact .inl ⟨_, _, exec_fconv_of_length hb s, rfl⟩
      · exact .inr ⟨_, .frameLength hb⟩
    | rcls b =>
      cases hk : kindOfLength b.length with
      | some k => exact .inl ⟨_, _, exec_rcls_of_kind hk s, loadResponse_results k b s⟩
      | none => exact .inr ⟨_, .responseLength (kindOfLength_eq_none_iff.mp hk)⟩
    | drstf f => exact .inr ⟨_, .badSelector hn⟩
    | dor1 | dor2 | dset1 | dset2 | dstop | dfin => cases hn

/-! ### A failure is told by the status of the result (R191), and is a result and nothing else (R197) -/

/-- The result that was added is the one responded with. -/
theorem eq_bytes_of_respond {u : State} {x : Result} (hu : u.results = s.results)
    (hr : (respond x u).results = s.results ++ [r]) : r = x.bytes := by
  rw [respond_results, hu] at hr
  exact (List.singleton_inj.mp (List.append_cancel_left hr)).symm

section
variable (h : exec i s = .next t)
include h

theorem Raises.next (hf : Raises s i f) : t = respond (.raised f) s :=
  raise_eq_next_iff.mp (hf.exec_eq.symm.trans h)

variable (hr : t.results = s.results ++ [r])
include hr

theorem Raises.result (hf : Raises s i f) : r = (Result.raised f).bytes :=
  eq_bytes_of_respond rfl (hf.next h ▸ hr)

theorem raises_of_status_ne_ok (h₀ : r.head? ≠ some 0x00) : ∃ f, Raises s i f := by
  refine (completes_or_raises s i).resolve_left fun ⟨payload, u, hexec, hu⟩ => h₀ ?_
  obtain rfl := complete_eq_next_iff.mp (hexec.symm.trans h)
  exact congrArg List.head? (eq_bytes_of_respond hu hr)

theorem length_of_status_one (h₁ : r.head? = some 0x01) :
    (∃ b, i = .rcls b ∧ b.length ∉ responseLengths) ∨ ∃ b, i = .fconv b ∧ b.length ≠ frameLen := by
  obtain ⟨f, hf⟩ := raises_of_status_ne_ok h hr (by simp [h₁])
  obtain rfl := hf.result h hr
  cases hf with
  | responseLength hb => exact .inl ⟨_, rfl, hb⟩
  | frameLength hb => exact .inr ⟨_, rfl, hb⟩
  | badSelector | noDraft => simp at h₁

theorem eq_of_status_ne_ok (h₀ : r.head? ≠ some 0x00) : t = { s with results := s.results ++ [r] } := by
  obtain ⟨f, hf⟩ := raises_of_status_ne_ok h hr h₀
  rw [hf.result h hr]
  exact hf.next h

end

/-! ### A request that fails (R197) -/

/-- A request's result with a status other than OK is a failure the block raises, and all it does. -/
theorem performRequest_fails {nMax : Nat} {b : List Byte} (h : performRequest nMax b s = .next t)
    (hr : t.results = s.results ++ [r]) (h₀ : r.head? ≠ some 0x00) :
    t = { s with results := s.results ++ [r] } ∧
      (r = [0x02] ∨ r = [0x03] ∨ (∃ n, r = [0x01, 0x01, n]) ∨ ∃ n, r = [0x01, 0x02, n, 0x07]) := by
  cases hd : decodeWith nMax b with
  | ok i =>
    rw [performRequest_of_ok hd] at h
    obtain ⟨f, hf⟩ := raises_of_status_ne_ok h hr h₀
    exact ⟨eq_of_status_ne_ok h hr h₀, hf.form (hf.result h hr)⟩
  | error e =>
    rw [performRequest_of_error hd, raise_eq_next_iff] at h
    subst h
    obtain rfl := eq_bytes_of_respond rfl hr
    exact ⟨rfl, .inl rfl⟩

end

/-! ### The obligations of the family -/

/-- Settles O42: the step performs the request from the state with the request taken, and a failure adds its result. -/
theorem failureChangesNothing : Obligations.FailureChangesNothing := by
  intro nMax s t b rest r hs h
  rw [stepWith_of_request hs] at h
  exact performRequest_fails h

/-- Settles O43: of the failures an operation can raise, two are InvalidValue. -/
theorem invalidValueOnlyFromWrongLengths : Obligations.InvalidValueOnlyFromWrongLengths := by
  intro i s t r h hr
  refine ⟨⟨length_of_status_one h hr, ?_⟩, fun h₁ => eq_of_status_ne_ok h hr (by simp [h₁]), ?_, ?_⟩
  · rintro (⟨b, rfl, hb⟩ | ⟨b, rfl, hb⟩)
    · rw [Raises.result h hr (.responseLength hb)]
      rfl
    · rw [Raises.result h hr (.frameLength hb)]
      rfl
  · rintro b rfl - hb
    exact Raises.result h hr (.responseLength hb)
  · rintro b rfl - hb
    exact Raises.result h hr (.frameLength hb)

/-- Settles O44: of the failures an operation can raise, one has status 03. -/
theorem noDraftExactlyBeforeTheFirstDnew : Obligations.NoDraftExactlyBeforeTheFirstDnew := by
  intro i s t h
  have hnext (hi : needsDraft i = true) (hs : s.dcre = false) : t = respond (.raised .noDraft) s :=
    Raises.next h (.noDraft hi hs)
  refine ⟨⟨fun hr => ?_, fun ⟨hi, hs⟩ => by rw [hnext hi hs]; rfl⟩, hnext⟩
  obtain ⟨f, hf⟩ := raises_of_status_ne_ok h hr (by decide)
  have hbytes := hf.result h hr
  cases hf with
  | noDraft hi hs => exact ⟨hi, hs⟩
  | responseLength | frameLength | badSelector => simp at hbytes

end Sys2Proof.Machine
end

/-! The family 70_reset_and_hazards: a reset, alone or during a request, puts the block in its reset state, answers nothing
and drops the request in progress (spec/70_reset_and_hazards.md R220, spec/10_state.md R34). -/

section
namespace Sys2Proof.Machine

/-! ### One step on a reset (R220) -/

/-- A reset during a request drops that request: the step is the one on a reset alone. -/
theorem stepWith_of_anyReset {nMax : Nat} {s : State} {rest : List Input}
    (h : s.inputs = .reset :: rest ∨ ∃ b, s.inputs = .resetDuring b :: rest) :
    stepWith nMax s = applyReset (takeInput rest s) := by
  obtain hs | ⟨b, hs⟩ := h
  · exact stepWith_of_reset hs
  · exact stepWith_of_resetDuring hs

/-- A reset sets DCRE and RK to their reset values and leaves what was issued and what was returned (R34). -/
theorem applyReset_next (s : State) :
    ∃ t, applyReset s = .next t ∧ t.dcre = false ∧ t.rk = .none ∧ t.inputs = s.inputs ∧ t.results = s.results :=
  ⟨_, rfl, rfl, rfl, rfl, rfl⟩

/-! ### The obligation of the family -/

/-- Settles O7: either input makes the step a reset of the state with the input taken. -/
theorem resetEventEntersTheResetState : Obligations.ResetEventEntersTheResetState := by
  intro nMax s rest hs
  rw [stepWith_of_anyReset hs]
  exact applyReset_next (takeInput rest s)

end Sys2Proof.Machine
end
